-- ==== Sys2Proof/Word.lean ====
section
/-! DEFINITION. The widths the spec uses (R8, R11, R85): bytes, 16-bit words, and the 4- and 12-bit fields of an opcode.
Every value of CORE is unsigned (R11, R153). -/

namespace Sys2Proof

/-- A byte: a general register, a timer or a memory cell (R8). -/
abbrev Byte := BitVec 8

/-- A 16-bit word: an opcode, the index register, the program counter (R8, R24, R25). -/
abbrev Word := BitVec 16

/-- A 4-bit field: a register index, a key number or a sprite height (R85). -/
abbrev Nibble := BitVec 4

/-- The 12-bit address field nnn (R85). -/
abbrev Addr := BitVec 12

end Sys2Proof
end

