-- ==== Sys2Proof/Config.lean ====
section
/-! DEFINITION. The configuration of CORE (R9, R44), fixed at construction, and the values the spec leaves free: the
random byte (R10) and KEY_CHOICE where it is not the default (R9). -/

namespace Sys2Proof

/-- INVALID_OPCODE_POLICY (R9, R236). -/
inductive InvalidOpcodePolicy where
  /-- An Unknown word raises InvalidOpcode. -/
  | halt
  /-- An Unknown word is recorded in `last_error` and passed over. -/
  | skip
  deriving DecidableEq, Repr

/-- KEY_CHOICE (R9): which of several pressed keys LD Vx,K stores. DESIGN CHOICE (log entry 3): the choice functions other
than the default are named by a number, so that a configuration stays plain data. -/
inductive KeyChoice where
  /-- The lowest-numbered pressed key, the spec's default. -/
  | lowest
  /-- The choice function `Config.keyFunction name`, about which nothing is known but that it answers a pressed key. -/
  | other (name : Nat)
  deriving DecidableEq, Repr

/-- The FONT parameter: the 80 bytes written at 0x000–0x04F (R9, R34). -/
abbrev Font := Vector Byte 80

/-- The configuration parameters of R9. -/
structure Config where
  /-- INVALID_OPCODE_POLICY. -/
  invalidOpcodePolicy : InvalidOpcodePolicy
  /-- CANONICAL_EXTRAS: SYS and SUBN are decoded. -/
  canonicalExtras : Bool
  /-- VF_RESET_ON_LOGIC: OR, AND and XOR set VF to 0. -/
  vfResetOnLogic : Bool
  /-- SHIFT_USES_VY: SHR and SHL shift Vy into Vx. -/
  shiftUsesVy : Bool
  /-- JUMP_OFFSET_USES_VX: Bnnn adds V[op[11:8]]. -/
  jumpOffsetUsesVx : Bool
  /-- LOAD_STORE_INCREMENTS_I: Fx55 and Fx65 add x + 1 to I. -/
  loadStoreIncrementsI : Bool
  /-- FONT. -/
  font : Font
  /-- KEY_CHOICE. -/
  keyChoice : KeyChoice
  deriving DecidableEq, Repr

/-- The default FONT: glyph d at 5·d, one row a line of the table of R36. -/
def Font.default : Font :=
  (#v[0xF0, 0x90, 0x90, 0x90, 0xF0, 0x20, 0x60, 0x20, 0x20, 0x70] : Vector Byte 10)
  ++ (#v[0xF0, 0x10, 0xF0, 0x80, 0xF0, 0xF0, 0x10, 0xF0, 0x10, 0xF0] : Vector Byte 10)
  ++ (#v[0x90, 0x90, 0xF0, 0x10, 0x10, 0xF0, 0x80, 0xF0, 0x10, 0xF0] : Vector Byte 10)
  ++ (#v[0xF0, 0x80, 0xF0, 0x90, 0xF0, 0xF0, 0x10, 0x20, 0x40, 0x40] : Vector Byte 10)
  ++ (#v[0xF0, 0x90, 0xF0, 0x90, 0xF0, 0xF0, 0x90, 0xF0, 0x10, 0xF0] : Vector Byte 10)
  ++ (#v[0xF0, 0x90, 0xF0, 0x90, 0x90, 0xE0, 0x90, 0xE0, 0x90, 0xE0] : Vector Byte 10)
  ++ (#v[0xF0, 0x80, 0x80, 0x80, 0xF0, 0xE0, 0x90, 0x90, 0x90, 0xE0] : Vector Byte 10)
  ++ (#v[0xF0, 0x80, 0xF0, 0x80, 0xF0, 0xF0, 0x80, 0xF0, 0x80, 0x80] : Vector Byte 10)

/-- The defaults of R9. -/
def Config.default : Config where
  invalidOpcodePolicy := .halt
  canonicalExtras := true
  vfResetOnLogic := false
  shiftUsesVy := false
  jumpOffsetUsesVx := false
  loadStoreIncrementsI := false
  font := Font.default
  keyChoice := .lowest

/-- FREE VALUE (R10, log entry 2): the byte the random source yields at its n-th draw. It obeys no law. -/
opaque Config.randomByte : Nat → Byte

/-- FREE VALUE (R9, log entry 3): the key that the choice function of the given name answers for a set of pressed keys.
Where it answers no pressed key, `Machine.State.chooseKey` does not take its answer. -/
opaque Config.keyFunction : Nat → Vector Bool 16 → Nibble

end Sys2Proof
end

