-- ==== Sys2Proof/Syntax.lean ====
section
/-! DEFINITION. The instructions of CORE: one constructor per row of spec/opcode_table.json, with the operand fields of
its format (R85, R87, R88). -/

namespace Sys2Proof

/-- The 35 instruction kinds (R2, R88), in the opcode table's order. -/
inductive Instr where
  /-- `SYS nnn`, 0nnn (R101). -/
  | sys (nnn : Addr)
  /-- `CLS`, 00E0 (R191). -/
  | cls
  /-- `RET`, 00EE (R102). -/
  | ret
  /-- `JP nnn`, 1nnn (R103). -/
  | jp (nnn : Addr)
  /-- `CALL nnn`, 2nnn (R104). -/
  | call (nnn : Addr)
  /-- `SE Vx, kk`, 3xkk (R120). -/
  | seImm (x : Nibble) (kk : Byte)
  /-- `SNE Vx, kk`, 4xkk (R121). -/
  | sneImm (x : Nibble) (kk : Byte)
  /-- `SE Vx, Vy`, 5xy0 (R122). -/
  | seReg (x y : Nibble)
  /-- `LD Vx, kk`, 6xkk (R141). -/
  | ldImm (x : Nibble) (kk : Byte)
  /-- `ADD Vx, kk`, 7xkk (R142). -/
  | addImm (x : Nibble) (kk : Byte)
  /-- `LD Vx, Vy`, 8xy0 (R143). -/
  | ldReg (x y : Nibble)
  /-- `OR Vx, Vy`, 8xy1 (R144). -/
  | or (x y : Nibble)
  /-- `AND Vx, Vy`, 8xy2 (R145). -/
  | and (x y : Nibble)
  /-- `XOR Vx, Vy`, 8xy3 (R146). -/
  | xor (x y : Nibble)
  /-- `ADD Vx, Vy`, 8xy4 (R147). -/
  | addReg (x y : Nibble)
  /-- `SUB Vx, Vy`, 8xy5 (R148). -/
  | sub (x y : Nibble)
  /-- `SHR Vx, Vy`, 8xy6 (R149). -/
  | shr (x y : Nibble)
  /-- `SUBN Vx, Vy`, 8xy7 (R150). -/
  | subn (x y : Nibble)
  /-- `SHL Vx, Vy`, 8xyE (R151). -/
  | shl (x y : Nibble)
  /-- `SNE Vx, Vy`, 9xy0 (R123). -/
  | sneReg (x y : Nibble)
  /-- `LD I, nnn`, Annn (R171). -/
  | ldI (nnn : Addr)
  /-- `JP V0, nnn`, Bnnn (R105). -/
  | jpV0 (nnn : Addr)
  /-- `RND Vx, kk`, Cxkk (R152). -/
  | rnd (x : Nibble) (kk : Byte)
  /-- `DRW Vx, Vy, n`, Dxyn (R192). -/
  | drw (x y n : Nibble)
  /-- `SKP Vx`, Ex9E (R210). -/
  | skp (x : Nibble)
  /-- `SKNP Vx`, ExA1 (R211). -/
  | sknp (x : Nibble)
  /-- `LD Vx, DT`, Fx07 (R212). -/
  | ldVxDt (x : Nibble)
  /-- `LD Vx, K`, Fx0A (R213). -/
  | ldVxK (x : Nibble)
  /-- `LD DT, Vx`, Fx15 (R214). -/
  | ldDt (x : Nibble)
  /-- `LD ST, Vx`, Fx18 (R215). -/
  | ldSt (x : Nibble)
  /-- `ADD I, Vx`, Fx1E (R172). -/
  | addI (x : Nibble)
  /-- `LD F, Vx`, Fx29 (R174). -/
  | ldF (x : Nibble)
  /-- `LD B, Vx`, Fx33 (R175). -/
  | ldB (x : Nibble)
  /-- `LD [I], Vx`, Fx55 (R176). -/
  | ldMemRegs (x : Nibble)
  /-- `LD Vx, [I]`, Fx65 (R177). -/
  | ldRegsMem (x : Nibble)
  deriving DecidableEq, Repr

end Sys2Proof
end

