-- ==== Sys2Proof/WellFormed.lean ====
section
/-! DEFINITION. Which instruction terms some opcode encodes. Every field has exactly the width its encoding gives it, so
only two checks remain: 0nnn is SYS except for the words 0x00E0 and 0x00EE (R88, R89), and SYS and SUBN exist only with
CANONICAL_EXTRAS = true (R9, R88). -/

namespace Sys2Proof

/-- `i` is an instruction that some 16-bit word encodes when CANONICAL_EXTRAS is `extras` (R88, R89). -/
def Instr.wf (extras : Bool) : Instr → Bool
  | .sys nnn => extras && nnn != 0x0E0#12 && nnn != 0x0EE#12
  | .subn _ _ => extras
  | .cls | .ret | .jp _ | .call _ | .seImm _ _ | .sneImm _ _ | .seReg _ _ | .ldImm _ _ | .addImm _ _ | .ldReg _ _
  | .or _ _ | .and _ _ | .xor _ _ | .addReg _ _ | .sub _ _ | .shr _ _ | .shl _ _ | .sneReg _ _ | .ldI _ | .jpV0 _
  | .rnd _ _ | .drw _ _ _ | .skp _ | .sknp _ | .ldVxDt _ | .ldVxK _ | .ldDt _ | .ldSt _ | .addI _ | .ldF _ | .ldB _
  | .ldMemRegs _ | .ldRegsMem _ => true

end Sys2Proof
end

