-- ==== Sys2Proof/Decode.lean ====
section
/-! DEFINITION. The decoder, total on every word (R89), the encoder written from the same map (R87, R88), and the
decoder on the opcode table's words. -/

namespace Sys2Proof

/-- Nibble n3 = op[15:12] (R84). -/
def nib3 (op : Word) : Nibble := op.extractLsb' 12 4
/-- Nibble n2 = op[11:8] (R84); the register field x (R85). -/
def nib2 (op : Word) : Nibble := op.extractLsb' 8 4
/-- Nibble n1 = op[7:4] (R84); the register field y (R85). -/
def nib1 (op : Word) : Nibble := op.extractLsb' 4 4
/-- Nibble n0 = op[3:0] (R84); the count field n (R85). -/
def nib0 (op : Word) : Nibble := op.extractLsb' 0 4
/-- The address field nnn = op[11:0] (R85). -/
def fieldNnn (op : Word) : Addr := op.extractLsb' 0 12
/-- The immediate byte kk = op[7:0] (R85). -/
def fieldKk (op : Word) : Byte := op.extractLsb' 0 8

/-- The 16-bit word of two bytes, the first the high one (R64, R82). -/
def wordOfBytes (hi lo : Byte) : Word := hi ++ lo

/-- The two bytes of a word in the order they are stored, the high one first (R64, R80). -/
def bytesOfWord (op : Word) : Byte × Byte := (op.extractLsb' 8 8, op.extractLsb' 0 8)

/-- Why the decoder answers no instruction. -/
inductive DecodeError where
  /-- The word is in the Unknown space of R90. -/
  | unknown (op : Word)
  /-- Fewer than two bytes were given (R80). -/
  | tooShort
  deriving DecidableEq, Repr

/-- Class 0 (R88): CLS and RET match before SYS. -/
def decodeClass0 (extras : Bool) (op : Word) : Except DecodeError Instr :=
  if op = 0x00E0#16 then .ok .cls
  else if op = 0x00EE#16 then .ok .ret
  else if extras then .ok (.sys (fieldNnn op))
  else .error (.unknown op)

/-- Class 8 (R88), selected by n0. -/
def decodeClass8 (extras : Bool) (op : Word) : Except DecodeError Instr :=
  let x := nib2 op
  let y := nib1 op
  match nib0 op with
  | 0x0#4 => .ok (.ldReg x y)
  | 0x1#4 => .ok (.or x y)
  | 0x2#4 => .ok (.and x y)
  | 0x3#4 => .ok (.xor x y)
  | 0x4#4 => .ok (.addReg x y)
  | 0x5#4 => .ok (.sub x y)
  | 0x6#4 => .ok (.shr x y)
  | 0x7#4 => if extras then .ok (.subn x y) else .error (.unknown op)
  | 0xE#4 => .ok (.shl x y)
  | _ => .error (.unknown op)

/-- Class E (R88), selected by the low byte. -/
def decodeClassE (op : Word) : Except DecodeError Instr :=
  match fieldKk op with
  | 0x9E#8 => .ok (.skp (nib2 op))
  | 0xA1#8 => .ok (.sknp (nib2 op))
  | _ => .error (.unknown op)

/-- Class F (R88), selected by the low byte. -/
def decodeClassF (op : Word) : Except DecodeError Instr :=
  let x := nib2 op
  match fieldKk op with
  | 0x07#8 => .ok (.ldVxDt x)
  | 0x0A#8 => .ok (.ldVxK x)
  | 0x15#8 => .ok (.ldDt x)
  | 0x18#8 => .ok (.ldSt x)
  | 0x1E#8 => .ok (.addI x)
  | 0x29#8 => .ok (.ldF x)
  | 0x33#8 => .ok (.ldB x)
  | 0x55#8 => .ok (.ldMemRegs x)
  | 0x65#8 => .ok (.ldRegsMem x)
  | _ => .error (.unknown op)

/-- `Decode(op)` (R88, R89), with CANONICAL_EXTRAS = `extras`. -/
def decodeWord (extras : Bool) (op : Word) : Except DecodeError Instr :=
  match nib3 op with
  | 0x0#4 => decodeClass0 extras op
  | 0x1#4 => .ok (.jp (fieldNnn op))
  | 0x2#4 => .ok (.call (fieldNnn op))
  | 0x3#4 => .ok (.seImm (nib2 op) (fieldKk op))
  | 0x4#4 => .ok (.sneImm (nib2 op) (fieldKk op))
  | 0x5#4 => if nib0 op = 0x0#4 then .ok (.seReg (nib2 op) (nib1 op)) else .error (.unknown op)
  | 0x6#4 => .ok (.ldImm (nib2 op) (fieldKk op))
  | 0x7#4 => .ok (.addImm (nib2 op) (fieldKk op))
  | 0x8#4 => decodeClass8 extras op
  | 0x9#4 => if nib0 op = 0x0#4 then .ok (.sneReg (nib2 op) (nib1 op)) else .error (.unknown op)
  | 0xA#4 => .ok (.ldI (fieldNnn op))
  | 0xB#4 => .ok (.jpV0 (fieldNnn op))
  | 0xC#4 => .ok (.rnd (nib2 op) (fieldKk op))
  | 0xD#4 => .ok (.drw (nib2 op) (nib1 op) (nib0 op))
  | 0xE#4 => decodeClassE op
  | _ => decodeClassF op

/-- The decoder on bytes: the instruction they begin with and the bytes after it (R80). -/
def decode (extras : Bool) : List Byte → Except DecodeError (Instr × List Byte)
  | hi :: lo :: rest => (decodeWord extras (wordOfBytes hi lo)).map fun i => (i, rest)
  | _ => .error .tooShort

/-- The word that encodes an instruction (R87, R88). -/
def encode : Instr → Word
  | .sys nnn => 0x0#4 ++ nnn
  | .cls => 0x00E0#16
  | .ret => 0x00EE#16
  | .jp nnn => 0x1#4 ++ nnn
  | .call nnn => 0x2#4 ++ nnn
  | .seImm x kk => 0x3#4 ++ x ++ kk
  | .sneImm x kk => 0x4#4 ++ x ++ kk
  | .seReg x y => 0x5#4 ++ x ++ y ++ 0x0#4
  | .ldImm x kk => 0x6#4 ++ x ++ kk
  | .addImm x kk => 0x7#4 ++ x ++ kk
  | .ldReg x y => 0x8#4 ++ x ++ y ++ 0x0#4
  | .or x y => 0x8#4 ++ x ++ y ++ 0x1#4
  | .and x y => 0x8#4 ++ x ++ y ++ 0x2#4
  | .xor x y => 0x8#4 ++ x ++ y ++ 0x3#4
  | .addReg x y => 0x8#4 ++ x ++ y ++ 0x4#4
  | .sub x y => 0x8#4 ++ x ++ y ++ 0x5#4
  | .shr x y => 0x8#4 ++ x ++ y ++ 0x6#4
  | .subn x y => 0x8#4 ++ x ++ y ++ 0x7#4
  | .shl x y => 0x8#4 ++ x ++ y ++ 0xE#4
  | .sneReg x y => 0x9#4 ++ x ++ y ++ 0x0#4
  | .ldI nnn => 0xA#4 ++ nnn
  | .jpV0 nnn => 0xB#4 ++ nnn
  | .rnd x kk => 0xC#4 ++ x ++ kk
  | .drw x y n => 0xD#4 ++ x ++ y ++ n
  | .skp x => 0xE#4 ++ x ++ 0x9E#8
  | .sknp x => 0xE#4 ++ x ++ 0xA1#8
  | .ldVxDt x => 0xF#4 ++ x ++ 0x07#8
  | .ldVxK x => 0xF#4 ++ x ++ 0x0A#8
  | .ldDt x => 0xF#4 ++ x ++ 0x15#8
  | .ldSt x => 0xF#4 ++ x ++ 0x18#8
  | .addI x => 0xF#4 ++ x ++ 0x1E#8
  | .ldF x => 0xF#4 ++ x ++ 0x29#8
  | .ldB x => 0xF#4 ++ x ++ 0x33#8
  | .ldMemRegs x => 0xF#4 ++ x ++ 0x55#8
  | .ldRegsMem x => 0xF#4 ++ x ++ 0x65#8

/-- The bytes of an instruction as a program image holds them (R64, R80). -/
def encodeBytes (i : Instr) : List Byte :=
  let b := bytesOfWord (encode i)
  [b.1, b.2]

/-- The word whose low `nbits` bits are those of `w` and whose other bits are 0. -/
def tableWord (nbits w : Nat) : Word := BitVec.ofNat 16 (w % 2 ^ nbits)

/-- What the decoder answers for an opcode-table word of `nbits` bits, laid out in memory order, in the default
configuration (CANONICAL_EXTRAS = true, R9; log entry 15). -/
def decodeTableWord (nbits w : Nat) : Option Instr :=
  let b := bytesOfWord (tableWord nbits w)
  match decode Config.default.canonicalExtras [b.1, b.2] with
  | .ok (i, _) => some i
  | .error _ => none

end Sys2Proof
end

