-- ==== Sys2Proof/Machine/State.lean ====
section
/-! DEFINITION. The state of CORE (R20) as plain data, its reset value (R48, R270), and the reasons a step can stop. -/

namespace Sys2Proof.Machine

/-- The closed error taxonomy with its payloads (R230). An error does not stop the model: `State.raise` records it in the
state (R233), so that a step which raises one answers a next state. -/
inductive CoreError where
  /-- Code 1: the lowest offending address. Raised by the fetch, DRW, LD B, LD [I] and LD Vx,[I] (R61, R62, R83). -/
  | outOfBoundsMemoryAccess (a : Word)
  /-- Code 2: CALL at depth 16 (R31). -/
  | stackOverflow
  /-- Code 3: RET at depth 0 (R32). -/
  | stackUnderflow
  /-- Code 4: LoadProgram with 0x200 + len > 4096 (R272). -/
  | programTooLarge (len : Nat)
  /-- Code 5: the Unknown word (R236). -/
  | invalidOpcode (op : Word)
  deriving DecidableEq, Repr

/-- The reasons of the spec-level refusal mark (R238). -/
inductive RefuseReason where
  /-- LD F with Vx > 0xF (R174). -/
  | fontDigitOutOfRange (v : Byte)
  /-- SKP or SKNP with Vx > 0xF (R210, R211). -/
  | keyOutOfRange (v : Byte)
  deriving DecidableEq, Repr

/-- The interpreter state (R42), the spec's `state`. -/
inductive RunState where
  /-- Cycle fetches and executes. -/
  | running
  /-- The key wait at pc is waiting to store a key into Vx. -/
  | waitingForKey (x : Nibble)
  /-- Terminal until Reset (R235). -/
  | halted (reason : CoreError)
  deriving DecidableEq, Repr

/-- The model's faults. There are none: every error of the spec is recorded in the state and the host is never aborted
(R232, R233), so no meaning and no step raises a fault (log entry 4). Safe: nothing the spec runs is stopped. -/
inductive Fault where
  deriving DecidableEq, Repr

/-- The model's refusals. -/
inductive Refusal where
  /-- Raised only by an arm of `exec` for an instruction without a meaning; no arm raises it now. Safe: the model stops
  where the hardware goes on. -/
  | notModelled (mnemonic : String)
  deriving DecidableEq, Repr

/-- The exceptions to what memory holds at reset, as (address, byte) pairs with rising addresses (R33; log entry 8). -/
abbrev Memory := List Host.Cell

/-- The 64×32 framebuffer: 32 rows, column c of a row its bit c (R37; log entry 16). -/
abbrev Framebuffer := Vector (BitVec 64) 32

/-- The complete state of CORE (R20), with the configuration (R9; log entry 1) and the draw counter (log entry 2). -/
structure State where
  /-- `mem`, as its exceptions to the reset contents. -/
  mem : Memory
  /-- `V[0..15]` (R21). -/
  v : Vector Byte 16
  /-- `I` (R24). -/
  i : Word
  /-- `pc` (R25). -/
  pc : Word
  /-- `DT` (R28). -/
  dt : Byte
  /-- `ST` (R29). -/
  st : Byte
  /-- The return addresses, the top of the stack first; `depth` is the length (R30; log entry 7). -/
  stack : List Word
  /-- `fb` (R37). -/
  fb : Framebuffer
  /-- `key[0..15]`, true when pressed (R39). -/
  key : Vector Bool 16
  /-- `state` (R42). -/
  runState : RunState
  /-- `last_error` (R43). -/
  lastError : Option CoreError
  /-- The spec-level refusal mark (R238). -/
  refused : Option RefuseReason
  /-- The model's own: how many random bytes have been drawn (R10; log entry 2). -/
  draws : Nat
  /-- The configuration, which nothing changes (R9, R44; log entry 1). -/
  config : Config
  deriving DecidableEq, Repr

/-- The state right after construction with configuration `c` (R48, R271). -/
def State.resetWith (c : Config) : State where
  mem := []
  v := Vector.replicate 16 0x00#8
  i := 0x0000#16
  pc := 0x200#16
  dt := 0x00#8
  st := 0x00#8
  stack := []
  fb := Vector.replicate 32 0#64
  key := Vector.replicate 16 false
  runState := .running
  lastError := none
  refused := none
  draws := 0
  config := c

/-- The state right after reset in the default configuration (R9, R48). -/
def State.reset : State := State.resetWith Config.default

/-- The outcome of an instruction or a transaction. -/
abbrev Result := Host.Outcome State Fault Refusal

end Sys2Proof.Machine
end

