-- ==== Sys2Proof/Machine/Ops.lean ====
section
/-! DEFINITION. The named operations over memory, registers, stack, framebuffer and keypad, and the one entry of an error
(R233). Meanings read and write State only through them. -/

namespace Sys2Proof.Machine

/-! ### Memory (R33, R48, R60–R63) -/

/-- MEM_SIZE (R8). -/
def memSize : Nat := 4096

/-- RESERVED_END, the first address an instruction may write (R8, R62). -/
def reservedEnd : Nat := 0x200

/-- PROGRAM_BASE (R8). -/
def programBase : Nat := 0x200

/-- What an address nothing has written reads as: the FONT at 0x000–0x04F and 0x00 elsewhere (R36, R48). -/
def Memory.base (font : Font) (a : Nat) : Byte := if h : a < 80 then font[a] else 0x00#8

/-- The byte at address `a`. -/
def Memory.read (font : Font) : Memory → Nat → Byte
  | [], a => Memory.base font a
  | (a', b) :: m, a => if a' = a then b else Memory.read font m a

/-- Memory with byte `b` at address `a`, in canonical form: an address that reads as at reset is not listed. -/
def Memory.write (font : Font) : Memory → Nat → Byte → Memory
  | [], a, b => if b = Memory.base font a then [] else [(a, b)]
  | (a', b') :: m, a, b =>
    if a < a' then (if b = Memory.base font a then (a', b') :: m else (a, b) :: (a', b') :: m)
    else if a = a' then (if b = Memory.base font a then m else (a, b) :: m)
    else (a', b') :: Memory.write font m a b

/-- The canonical form from address `lo` on: addresses strictly rising and inside memory, no byte listed that an unlisted
address would read as. -/
def Memory.wfFrom (font : Font) : Nat → Memory → Bool
  | _, [] => true
  | lo, (a, b) :: m => lo ≤ a && a < memSize && b != Memory.base font a && Memory.wfFrom font (a + 1) m

/-- The canonical form of memory. -/
def Memory.wf (font : Font) (m : Memory) : Bool := Memory.wfFrom font 0 m

/-- `MemRead(a, 1)` (R12). Every use is preceded by the bounds check of R61. -/
def State.readByte (s : State) (a : Nat) : Byte := Memory.read s.config.font s.mem a

/-- `MemWrite(a, 1, b)` (R12). -/
def State.storeByte (s : State) (a : Nat) (b : Byte) : State :=
  { s with mem := Memory.write s.config.font s.mem a b }

/-- The `m` bytes at `a`, `a + 1`, … (R63). -/
def State.readBytes (s : State) (a m : Nat) : List Byte := (List.range m).map fun k => s.readByte (a + k)

/-- Writes the bytes at `a`, `a + 1`, … in address order (R63). -/
def State.storeBytes (s : State) (a : Nat) : List Byte → State
  | [] => s
  | b :: bs => (s.storeByte a b).storeBytes (a + 1) bs

/-! ### Updates of single fields -/

/-- `pc <- a`. -/
def State.setPc (s : State) (a : Word) : State := { s with pc := a }
/-- `I <- a`. -/
def State.setI (s : State) (a : Word) : State := { s with i := a }
/-- `DT <- b`. -/
def State.setDt (s : State) (b : Byte) : State := { s with dt := b }
/-- `ST <- b`. -/
def State.setSt (s : State) (b : Byte) : State := { s with st := b }
/-- Replaces the framebuffer. -/
def State.setFb (s : State) (f : Framebuffer) : State := { s with fb := f }
/-- Replaces the return stack. -/
def State.setStack (s : State) (l : List Word) : State := { s with stack := l }
/-- `state <- r`. -/
def State.setRunState (s : State) (r : RunState) : State := { s with runState := r }
/-- `last_error <- e`. -/
def State.recordError (s : State) (e : CoreError) : State := { s with lastError := some e }
/-- Replaces the general registers. -/
def State.setRegs (s : State) (r : Vector Byte 16) : State := { s with v := r }
/-- `RandomByte()` has been consumed (R10). -/
def State.countDraw (s : State) : State := { s with draws := s.draws + 1 }

/-! ### General registers (R21, R23) -/

/-- `V[x]`. -/
def State.reg (s : State) (x : Nibble) : Byte := s.v[x.toNat]'x.isLt

/-- `V[x] <- b`. -/
def State.setReg (s : State) (x : Nibble) (b : Byte) : State := { s with v := s.v.set x.toNat b x.isLt }

/-- The index of VF (R22). -/
def vf : Nibble := 0xF#4

/-! ### Keypad (R39, R41, R252) -/

/-- `IsPressed(k)`. -/
def State.isPressed (s : State) (k : Nibble) : Bool := s.key[k.toNat]'k.isLt

/-- `SetKeyState(k, pressed)`. -/
def State.setKey (s : State) (k : Nibble) (pressed : Bool) : State :=
  { s with key := s.key.set k.toNat pressed k.isLt }

/-! ### The program counter (R13, R26, R27) -/

/-- `Advance()`: exact for every pc an instruction can be fetched from (log entry 6). -/
def State.advance (s : State) : State := s.setPc (s.pc + 2#16)

/-- `SkipIf(c)`. -/
def State.skipIf (s : State) (c : Bool) : State := s.setPc (if c then s.pc + 4#16 else s.pc + 2#16)

/-! ### Errors and refusals (R233, R234, R238) -/

/-- `raise E(info)`: the one entry of every error. Only `state` and `last_error` change; pc stays where it is. There is no
return from it (R241): only Reset leaves Halted. -/
def State.raise (s : State) (e : CoreError) : State :=
  { s with runState := .halted e, lastError := some e }

/-- `refuse(reason)`: the sticky mark, and nothing else (R238; log entry 5). -/
def State.refuse (s : State) (r : RefuseReason) : State := { s with refused := some r }

/-- `Reset()` (R270): every piece of state to its reset value, the configuration kept (R44). The draw counter goes on, so
that draws after a reset are new ones (log entry 2). -/
def State.resetCore (s : State) : State := { State.resetWith s.config with draws := s.draws }

/-- The numeric code of an error (R230). -/
def CoreError.code : CoreError → Nat
  | .outOfBoundsMemoryAccess _ => 1
  | .stackOverflow => 2
  | .stackUnderflow => 3
  | .programTooLarge _ => 4
  | .invalidOpcode _ => 5

/-! ### The return stack (R30–R32) -/

/-- STACK_DEPTH (R8). -/
def stackDepth : Nat := 16

/-- `depth` (R30). -/
def State.depth (s : State) : Nat := s.stack.length

/-- `stack[k]`, counted from the bottom as the spec counts it (R30); none for k ≥ depth. -/
def State.stackAt (s : State) (k : Nat) : Option Word := s.stack.reverse[k]?

/-- `Push(a)` (R31): none where it raises StackOverflow. -/
def State.push (s : State) (a : Word) : Option State :=
  if s.depth < stackDepth then some (s.setStack (a :: s.stack)) else none

/-- `Pop()` (R32): the popped address and the state after it; none where it raises StackUnderflow. -/
def State.pop (s : State) : Option (Word × State) :=
  match s.stack with
  | [] => none
  | a :: l => some (a, s.setStack l)

/-! ### Access checks (R61, R62, R173) -/

/-- The direction of an I-based access. -/
inductive AccessKind where
  | read
  | write
  deriving DecidableEq, Repr

/-- The check of R173 for `m` bytes at `a`, made before any byte moves: the error it raises, if any. -/
def accessError (kind : AccessKind) (a : Word) (m : Nat) : Option CoreError :=
  if 1 ≤ m ∧ memSize ≤ a.toNat + m - 1 then
    some (.outOfBoundsMemoryAccess (BitVec.ofNat 16 (max a.toNat memSize)))
  else if kind = .write ∧ a.toNat < reservedEnd then some (.outOfBoundsMemoryAccess a)
  else none

/-- `check(I, m, kind)` and then the rest of the instruction, which runs only where the check passes. -/
def State.checked (s : State) (kind : AccessKind) (m : Nat) (rest : Result) : Result :=
  match accessError kind s.i m with
  | some e => .next (s.raise e)
  | none => rest

/-! ### Fetch (R82, R83) -/

/-- The error the fetch at `pc` raises, if any (R83). -/
def fetchError (pc : Word) : Option CoreError :=
  if memSize ≤ pc.toNat then some (.outOfBoundsMemoryAccess pc)
  else if memSize ≤ pc.toNat + 1 then some (.outOfBoundsMemoryAccess 0x1000#16)
  else none

/-- The big-endian word at `pc` (R64, R82). -/
def State.fetchWord (s : State) : Word := s.readByte s.pc.toNat ++ s.readByte (s.pc.toNat + 1)

/-! ### Framebuffer (R37, R190, R192) -/

/-- The pixel `fb[row][col]`. -/
def Framebuffer.pixel (f : Framebuffer) (row : Fin 32) (col : Fin 64) : Bool := f[row].getLsbD col.val

/-- `fb[row][col] <- fb[row][col] ^ 1`. -/
def Framebuffer.flip (f : Framebuffer) (row : Fin 32) (col : Fin 64) : Framebuffer :=
  f.set row.val (f[row] ^^^ BitVec.twoPow 64 col.val) row.isLt

/-- `Clear()`: every pixel 0 (R190, R191). -/
def Framebuffer.clear : Framebuffer := Vector.replicate 32 0#64

/-- Where a draw stands: the framebuffer and whether a pixel has gone from 1 to 0 (R192). -/
structure Drawing where
  fb : Framebuffer
  collided : Bool
  deriving DecidableEq, Repr

/-- One set sprite bit: the 1 → 0 test, then the XOR (R192). -/
def Drawing.bit (d : Drawing) (row : Fin 32) (col : Fin 64) : Drawing where
  fb := d.fb.flip row col
  collided := d.collided || d.fb.pixel row col

/-- One sprite byte at row `row`: bit 7 at column `px`, bit 0 at column `px + 7`, modulo 64 (R192, R193). -/
def Drawing.row (d : Drawing) (px : Nat) (row : Fin 32) (b : Byte) : Drawing :=
  (List.range 8).foldl (fun d c => if b.getLsbD (7 - c) then d.bit row (Fin.ofNat 64 (px + c)) else d) d

/-- Sprite bytes from row `py` on, row numbers modulo 32 (R192). -/
def Drawing.rows (d : Drawing) (px py : Nat) : List Byte → Drawing
  | [] => d
  | b :: bs => (d.row px (Fin.ofNat 32 py) b).rows px (py + 1) bs

/-- `Draw(px, py, sprite)` (R190, R192). -/
def Framebuffer.draw (f : Framebuffer) (px py : Nat) (sprite : List Byte) : Drawing :=
  Drawing.rows ⟨f, false⟩ px py sprite

end Sys2Proof.Machine
end

