-- ==== Sys2Proof/Machine/Flags.lean ====
section
/-! DEFINITION. The flag outcomes VF receives (R22) and the order in which result and flag are written (R140). -/

namespace Sys2Proof.Machine

/-- A flag outcome as the byte VF holds. -/
def flagByte (f : Bool) : Byte := if f then 1#8 else 0#8

/-- Carry of ADD Vx,Vy: the exact sum is above 255 (R147). -/
def carryFlag (a b : Byte) : Bool := decide (a.toNat + b.toNat > 255)

/-- Not-borrow of `a - b`: `a ≥ b` (R148, R150). -/
def notBorrowFlag (a b : Byte) : Bool := decide (a.toNat ≥ b.toNat)

/-- The bit SHR shifts out (R149). -/
def shiftedOutRight (a : Byte) : Bool := a.getLsbD 0

/-- The bit SHL shifts out (R151). -/
def shiftedOutLeft (a : Byte) : Bool := a.getLsbD 7

/-- `V[0xF] <- f`. -/
def State.setFlag (s : State) (f : Bool) : State := s.setReg vf (flagByte f)

/-- The result to Vx, then the flag to VF, so that VF ends holding the flag when x = F (R140). -/
def State.setResultAndFlag (s : State) (x : Nibble) (r : Byte) (f : Bool) : State := (s.setReg x r).setFlag f

/-- The result of OR, AND or XOR to Vx, then 0 to VF if VF_RESET_ON_LOGIC (R140, R144–R146). -/
def State.setLogicResult (s : State) (x : Nibble) (r : Byte) : State :=
  if s.config.vfResetOnLogic then s.setResultAndFlag x r false else s.setReg x r

end Sys2Proof.Machine
end

