-- ==== Sys2Proof/Machine/Operands.lean ====
section
/-! DEFINITION. The operand forms: where an instruction takes its operand from, with the configuration's variants (R9,
R86), and what a byte is split into (R174, R175). -/

namespace Sys2Proof.Machine

/-- nnn zero-extended to a word (R86). -/
def addrWord (nnn : Addr) : Word := nnn.setWidth 16

/-- A byte zero-extended to a word (R86). -/
def byteWord (b : Byte) : Word := b.setWidth 16

/-- The operand SHR and SHL shift: Vx, or Vy with SHIFT_USES_VY (R149, R151). -/
def State.shiftSource (s : State) (x y : Nibble) : Byte := if s.config.shiftUsesVy then s.reg y else s.reg x

/-- The offset of JP V0: V0, or V[op[11:8]] with JUMP_OFFSET_USES_VX (R105). -/
def State.jumpOffset (s : State) (nnn : Addr) : Byte :=
  if s.config.jumpOffsetUsesVx then s.reg (nnn.extractLsb' 8 4) else s.reg 0x0#4

/-- V0..Vx in order (R86, R176). -/
def State.regsUpTo (s : State) (x : Nibble) : List Byte := s.v.toList.take (x.toNat + 1)

/-- The registers with V0..Vx loaded from the bytes at `a`, `a + 1`, … (R177). -/
def State.loadedRegs (s : State) (x : Nibble) (a : Nat) : Vector Byte 16 :=
  Vector.ofFn fun k => if k.val ≤ x.toNat then s.readByte (a + k.val) else s.v[k]

/-- I after LD [I],Vx or LD Vx,[I]: unchanged, or I + x + 1 mod 65536 with LOAD_STORE_INCREMENTS_I (R176, R177). -/
def State.blockIndex (s : State) (x : Nibble) : Word :=
  if s.config.loadStoreIncrementsI then s.i + BitVec.ofNat 16 (x.toNat + 1) else s.i

/-- The address of the glyph of digit `d`: 5·d (R34, R174). -/
def fontAddress (d : Byte) : Word := BitVec.ofNat 16 (5 * d.toNat)

/-- The hundreds, tens and ones digits (R175). -/
def bcdDigits (v : Byte) : List Byte :=
  [BitVec.ofNat 8 (v.toNat / 100), BitVec.ofNat 8 (v.toNat / 10 % 10), BitVec.ofNat 8 (v.toNat % 10)]

/-- The sixteen key numbers, lowest first (R39). -/
def keyNumbers : List Nibble := (List.range 16).map (BitVec.ofNat 4)

/-- The lowest-numbered pressed key; none where no key is pressed. -/
def State.lowestKey (s : State) : Option Nibble := keyNumbers.find? s.isPressed

/-- `KEY_CHOICE({k | key[k]})` (R9, R81, R213): none where no key is pressed, else a pressed key. A choice function's answer
counts only if that key is pressed (log entry 3). -/
def State.chooseKey (s : State) : Option Nibble :=
  match s.config.keyChoice with
  | .lowest => s.lowestKey
  | .other name =>
    let k := Config.keyFunction name s.key
    if s.isPressed k then some k else s.lowestKey

/-- A key number as the byte a register receives (R213). -/
def keyByte (k : Nibble) : Byte := k.setWidth 8

end Sys2Proof.Machine
end

