-- ==== Sys2Proof/Machine/Alu.lean ====
section
/-! DEFINITION. Register loads and arithmetic (R140–R153). -/

namespace Sys2Proof.Machine

/-- `LD Vx, kk` (R141). -/
def execLdImm (x : Nibble) (kk : Byte) (s : State) : Result := .next (s.setReg x kk).advance

/-- `ADD Vx, kk`: no flag (R142). -/
def execAddImm (x : Nibble) (kk : Byte) (s : State) : Result := .next (s.setReg x (s.reg x + kk)).advance

/-- `LD Vx, Vy` (R143). -/
def execLdReg (x y : Nibble) (s : State) : Result := .next (s.setReg x (s.reg y)).advance

/-- `OR Vx, Vy` (R144). -/
def execOr (x y : Nibble) (s : State) : Result := .next (s.setLogicResult x (s.reg x ||| s.reg y)).advance

/-- `AND Vx, Vy` (R145). -/
def execAnd (x y : Nibble) (s : State) : Result := .next (s.setLogicResult x (s.reg x &&& s.reg y)).advance

/-- `XOR Vx, Vy` (R146). -/
def execXor (x y : Nibble) (s : State) : Result := .next (s.setLogicResult x (s.reg x ^^^ s.reg y)).advance

/-- `ADD Vx, Vy`: VF = carry (R147). -/
def execAddReg (x y : Nibble) (s : State) : Result :=
  .next (s.setResultAndFlag x (s.reg x + s.reg y) (carryFlag (s.reg x) (s.reg y))).advance

/-- `SUB Vx, Vy`: VF = not borrow (R148). -/
def execSub (x y : Nibble) (s : State) : Result :=
  .next (s.setResultAndFlag x (s.reg x - s.reg y) (notBorrowFlag (s.reg x) (s.reg y))).advance

/-- `SHR Vx {, Vy}`: VF = the bit shifted out (R149). -/
def execShr (x y : Nibble) (s : State) : Result :=
  .next (s.setResultAndFlag x (s.shiftSource x y >>> 1) (shiftedOutRight (s.shiftSource x y))).advance

/-- `SUBN Vx, Vy`: VF = not borrow of Vy - Vx (R150). -/
def execSubn (x y : Nibble) (s : State) : Result :=
  .next (s.setResultAndFlag x (s.reg y - s.reg x) (notBorrowFlag (s.reg y) (s.reg x))).advance

/-- `SHL Vx {, Vy}`: VF = the bit shifted out (R151). -/
def execShl (x y : Nibble) (s : State) : Result :=
  .next (s.setResultAndFlag x (s.shiftSource x y <<< 1) (shiftedOutLeft (s.shiftSource x y))).advance

/-- `RND Vx, kk`: a fresh draw, masked (R10, R152). -/
def execRnd (x : Nibble) (kk : Byte) (s : State) : Result :=
  .next (s.countDraw.setReg x (Config.randomByte s.draws &&& kk)).advance

end Sys2Proof.Machine
end

