-- ==== Sys2Proof/Machine/Control.lean ====
section
/-! DEFINITION. Control transfer: SYS, RET, JP, CALL, JP V0 (R100–R105). -/

namespace Sys2Proof.Machine

/-- `SYS nnn`: ignored (R101). -/
def execSys (_nnn : Addr) (s : State) : Result := .next s.advance

/-- `RET`: `a <- Pop(); pc <- a` (R102). -/
def execRet (s : State) : Result :=
  match s.pop with
  | some (a, t) => .next (t.setPc a)
  | none => .next (s.raise .stackUnderflow)

/-- `JP nnn` (R103). -/
def execJp (nnn : Addr) (s : State) : Result := .next (s.setPc (addrWord nnn))

/-- `CALL nnn`: `Push(pc + 2); pc <- nnn` (R104). -/
def execCall (nnn : Addr) (s : State) : Result :=
  match s.push (s.pc + 2#16) with
  | some t => .next (t.setPc (addrWord nnn))
  | none => .next (s.raise .stackOverflow)

/-- `JP V0, nnn`: the sum is exact, at most 0x10FE (R105). -/
def execJpV0 (nnn : Addr) (s : State) : Result :=
  .next (s.setPc (addrWord nnn + byteWord (s.jumpOffset nnn)))

end Sys2Proof.Machine
end

