-- ==== Sys2Proof/Machine/Display.lean ====
section
/-! DEFINITION. The display controller's instructions, CLS and DRW (R190–R194). -/

namespace Sys2Proof.Machine

/-- `CLS` (R191). -/
def execCls (s : State) : Result := .next (s.setFb Framebuffer.clear).advance

/-- `DRW Vx, Vy, n`: the sprite is read and both coordinates are read before VF is written (R192). -/
def execDrw (x y n : Nibble) (s : State) : Result :=
  let d := s.fb.draw (s.reg x).toNat (s.reg y).toNat (s.readBytes s.i.toNat n.toNat)
  s.checked .read n.toNat (.next ((s.setFb d.fb).setFlag d.collided).advance)

end Sys2Proof.Machine
end

