-- ==== Sys2Proof/Machine/IndexMemory.lean ====
section
/-! DEFINITION. The index register and memory (R170–R177). -/

namespace Sys2Proof.Machine

/-- `LD I, nnn` (R171). -/
def execLdI (nnn : Addr) (s : State) : Result := .next (s.setI (addrWord nnn)).advance

/-- `ADD I, Vx`: modulo 65536, VF untouched (R172). -/
def execAddI (x : Nibble) (s : State) : Result := .next (s.setI (s.i + byteWord (s.reg x))).advance

/-- `LD F, Vx`: refused for Vx > 0xF (R174, R238). -/
def execLdF (x : Nibble) (s : State) : Result :=
  if 0xF < (s.reg x).toNat then .next (s.refuse (.fontDigitOutOfRange (s.reg x)))
  else .next (s.setI (fontAddress (s.reg x))).advance

/-- `LD B, Vx`: the decimal digits at I, I + 1, I + 2 (R175). -/
def execLdB (x : Nibble) (s : State) : Result :=
  s.checked .write 3 (.next (s.storeBytes s.i.toNat (bcdDigits (s.reg x))).advance)

/-- `LD [I], Vx`: V0..Vx at I, I + 1, … (R176). -/
def execLdMemRegs (x : Nibble) (s : State) : Result :=
  s.checked .write (x.toNat + 1)
    (.next ((s.storeBytes s.i.toNat (s.regsUpTo x)).setI (s.blockIndex x)).advance)

/-- `LD Vx, [I]`: V0..Vx from I, I + 1, … (R177). -/
def execLdRegsMem (x : Nibble) (s : State) : Result :=
  s.checked .read (x.toNat + 1)
    (.next ((s.setRegs (s.loadedRegs x s.i.toNat)).setI (s.blockIndex x)).advance)

end Sys2Proof.Machine
end

