-- ==== Sys2Proof/Machine/KeypadTimers.lean ====
section
/-! DEFINITION. Keypad and timer instructions (R209–R215). -/

namespace Sys2Proof.Machine

/-- The key skips' shared part: a Vx above 0xF is refused, else skip if `key[Vx] = pressed` (R210, R211, R238). -/
def State.skipIfKey (s : State) (x : Nibble) (pressed : Bool) : State :=
  if 0xF < (s.reg x).toNat then s.refuse (.keyOutOfRange (s.reg x))
  else s.skipIf (s.isPressed ((s.reg x).setWidth 4) == pressed)

/-- `SKP Vx` (R210). -/
def execSkp (x : Nibble) (s : State) : Result := .next (s.skipIfKey x true)

/-- `SKNP Vx` (R211). -/
def execSknp (x : Nibble) (s : State) : Result := .next (s.skipIfKey x false)

/-- `LD Vx, DT` (R212). -/
def execLdVxDt (x : Nibble) (s : State) : Result := .next (s.setReg x s.dt).advance

/-- `LD Vx, K`: completes at once if a key is down, else waits with pc unchanged (R213). -/
def execLdVxK (x : Nibble) (s : State) : Result :=
  match s.chooseKey with
  | some k => .next (s.setReg x (keyByte k)).advance
  | none => .next (s.setRunState (.waitingForKey x))

/-- `LD DT, Vx` (R214). -/
def execLdDt (x : Nibble) (s : State) : Result := .next (s.setDt (s.reg x)).advance

/-- `LD ST, Vx` (R215). -/
def execLdSt (x : Nibble) (s : State) : Result := .next (s.setSt (s.reg x)).advance

end Sys2Proof.Machine
end

