-- ==== Sys2Proof/Machine/Cycle.lean ====
section
/-! DEFINITION. The transaction `Cycle()` (R81, R237), and how a word is placed where it fetches. -/

namespace Sys2Proof.Machine

/-- What an Unknown word does (R236): raise InvalidOpcode, or record it and advance. -/
def State.invalidOpcode (s : State) (op : Word) : State :=
  match s.config.invalidOpcodePolicy with
  | .halt => s.raise (.invalidOpcode op)
  | .skip => (s.recordError (.invalidOpcode op)).advance

/-- Cycle in WaitingForKey(x) (R81): the wait completes when some key is down, else nothing changes. -/
def State.resumeKeyWait (s : State) (x : Nibble) : State :=
  match s.chooseKey with
  | some k => (s.setReg x (keyByte k)).advance.setRunState .running
  | none => s

/-- Cycle in Running (R81): fetch, decode, execute. -/
def State.fetchAndExecute (s : State) : Result :=
  match fetchError s.pc with
  | some e => .next (s.raise e)
  | none =>
    match decodeWord s.config.canonicalExtras s.fetchWord with
    | .ok i => exec i s
    | .error _ => .next (s.invalidOpcode s.fetchWord)

/-- `Cycle()` (R81), its checks in the order of R237. A refused and a halted state do not change. -/
def State.cycle (s : State) : Result :=
  if s.refused.isSome then .next s
  else
    match s.runState with
    | .halted _ => .next s
    | .waitingForKey x => .next (s.resumeKeyWait x)
    | .running => s.fetchAndExecute

/-- `s` with `op` at the address the next Cycle fetches from, and whatever that fetch needs: Running, no refusal mark, and
a pc that can be fetched from (the reset vector where the old one cannot). It stands for loading a program (log entry 9). -/
def State.placeWord (s : State) (op : Word) : State :=
  let pc := if s.pc.toNat + 1 < memSize then s.pc else 0x200#16
  let b := bytesOfWord op
  { s.storeBytes pc.toNat [b.1, b.2] with pc := pc, runState := .running, refused := none }

end Sys2Proof.Machine
end

