-- ==== Sys2Proof/Machine/Step.lean ====
section
/-! DEFINITION. One step of the machine: one `Cycle()` (R81, R256). -/

namespace Sys2Proof.Machine

/-- One step: the transaction `Cycle()`. -/
def step (s : State) : Host.Outcome State Fault Refusal := s.cycle

/-- `s` with the opcode-table word `w` of `nbits` bits where `step` fetches its next instruction. -/
def State.withFetchWord (s : State) (nbits w : Nat) : State := s.placeWord (tableWord nbits w)

end Sys2Proof.Machine
end

