-- ==== Sys2Proof/Machine/Transactions.lean ====
section
/-! DEFINITION. The host interface (R250–R255, R270–R273): the other transactions beside `Cycle()`, the observers, the
moves the host has (R251), and schedules of them. -/

namespace Sys2Proof.Machine

/-- A timer after one tick (R245). -/
def tickTimer (t : Byte) : Byte := if 0 < t.toNat then t - 1 else t

/-- `Tick()` (R245, R247): both timers, nothing else, in every interpreter state. -/
def State.tick (s : State) : State := (s.setDt (tickTimer s.dt)).setSt (tickTimer s.st)

/-- `LoadProgram(bytes)` (R272): all bytes at 0x200 on, or ProgramTooLarge and no byte. -/
def State.loadProgram (s : State) (bytes : List Byte) : State :=
  if programBase + bytes.length > memSize then s.raise (.programTooLarge bytes.length)
  else s.storeBytes programBase bytes

/-- `IsSoundActive()` (R253). -/
def State.isSoundActive (s : State) : Bool := decide (0 < s.st.toNat)

/-- `FramebufferSnapshot()` (R254). -/
def State.framebufferSnapshot (s : State) : Framebuffer := s.fb

/-- What `InspectState()` reports (R255): neither stack contents nor memory. -/
structure Inspection where
  v : Vector Byte 16
  i : Word
  pc : Word
  dt : Byte
  st : Byte
  depth : Nat
  runState : RunState
  lastError : Option CoreError
  deriving DecidableEq, Repr

/-- `InspectState()` (R255). -/
def State.inspect (s : State) : Inspection where
  v := s.v
  i := s.i
  pc := s.pc
  dt := s.dt
  st := s.st
  depth := s.depth
  runState := s.runState
  lastError := s.lastError

/-- The transactions of R250. The host has no move with a key number above 15 (R252). -/
inductive Transaction where
  | cycle
  | tick
  | reset
  | loadProgram (bytes : List Byte)
  | submitKeyEvent (key : Nibble) (pressed : Bool)
  | framebufferSnapshot
  | isSoundActive
  | inspectState
  deriving DecidableEq, Repr

/-- What a transaction answers the host. -/
inductive Response where
  | none
  | framebuffer (f : Framebuffer)
  | sound (active : Bool)
  | inspection (r : Inspection)
  deriving DecidableEq, Repr

/-- What CORE does when the host issues a transaction; the observers change nothing (R250). Whether the host may issue it
is `transact`'s. -/
def perform (t : Transaction) (s : State) : Result :=
  match t with
  | .cycle => step s
  | .tick => .next s.tick
  | .reset => .next s.resetCore
  | .loadProgram bytes => .next (s.loadProgram bytes)
  | .submitKeyEvent k p => .next (s.setKey k p)
  | .framebufferSnapshot => .next s
  | .isSoundActive => .next s
  | .inspectState => .next s

/-- What a transaction answers the host, read from the state it finds (R253–R255). -/
def respond (t : Transaction) (s : State) : Response :=
  match t with
  | .framebufferSnapshot => .framebuffer s.framebufferSnapshot
  | .isSoundActive => .sound s.isSoundActive
  | .inspectState => .inspection s.inspect
  | .cycle | .tick | .reset | .loadProgram _ | .submitKeyEvent _ _ => .none

/-- CORE with what the host's duties depend on (R251; log entry 10). -/
structure System where
  /-- The state of CORE. -/
  core : State
  /-- No Cycle has been issued since the last Reset, construction being one (R271). Not a part of CORE. -/
  fresh : Bool
  deriving DecidableEq, Repr

/-- The system right after construction with configuration `c` (R271). -/
def System.constructed (c : Config) : System where
  core := State.resetWith c
  fresh := true

/-- The host's duties allow the transaction (R251): LoadProgram only after a Reset and before the first Cycle (D24). -/
def Transaction.allowed (fresh : Bool) : Transaction → Bool
  | .loadProgram _ => fresh
  | .cycle | .tick | .reset | .submitKeyEvent _ _ | .framebufferSnapshot | .isSoundActive | .inspectState => true

/-- Whether no Cycle has been issued since the last Reset, after the transaction. -/
def Transaction.freshAfter (fresh : Bool) : Transaction → Bool
  | .reset => true
  | .cycle => false
  | .tick | .loadProgram _ | .submitKeyEvent _ _ | .framebufferSnapshot | .isSoundActive | .inspectState => fresh

/-- One move of the host: none where a duty forbids the transaction (R251's reading rule). `perform` answers a next state
always, so nothing else has no move. -/
def transact (t : Transaction) (y : System) : Option System :=
  if t.allowed y.fresh then
    match perform t y.core with
    | .next s => some ⟨s, t.freshAfter y.fresh⟩
    | .fault _ => none
    | .refused _ => none
  else none

/-- A schedule of transactions, run in order, as the host issues them (R250): none where one of them has no move. -/
def runSchedule : List Transaction → System → Option System
  | [], y => some y
  | t :: ts, y =>
    match transact t y with
    | some z => runSchedule ts z
    | none => none

end Sys2Proof.Machine
end

