-- ==== Sys2Proof/Safety.lean ====
section
/-! DEFINITION. The terms claims use: where an instruction can execute, what a transaction leaves unchanged, the invariant
of reachable states, the pixels a sprite covers, how a run ends (R258), and the host's duty (R251). -/

namespace Sys2Proof.Machine

/-- A word can be fetched at pc (R83). Every instruction executes in such a state, since its fetch has succeeded. -/
abbrev State.fetchable (s : State) : Prop := s.pc.toNat + 1 < memSize

/-- Cycle fetches in this state (R81, R237). -/
abbrev State.executes (s : State) : Prop := s.refused = none ∧ s.runState = .running ∧ s.fetchable

/-! ### Frames -/

/-- What an instruction may change beside pc. By default nothing. -/
structure Footprint where
  /-- The registers it may change. -/
  regs : List Nibble := []
  /-- The first of the bytes it may change. -/
  memFrom : Nat := 0
  /-- How many bytes it may change. -/
  memLen : Nat := 0
  /-- It may change I. -/
  i : Bool := false
  /-- It may change DT. -/
  dt : Bool := false
  /-- It may change ST. -/
  st : Bool := false
  /-- It may change the return stack. -/
  stack : Bool := false
  /-- It may change the framebuffer. -/
  fb : Bool := false
  /-- It may change `state`. -/
  runState : Bool := false
  /-- It may change `last_error`. -/
  lastError : Bool := false
  /-- It may change the refusal mark. -/
  refused : Bool := false
  /-- It may draw a random byte. -/
  draws : Bool := false

/-- From `s` to `t` nothing but pc changes outside the footprint `w`: every other register, every other byte of memory,
every other part of the state. The keypad and the configuration never change. -/
def Frame (w : Footprint) (s t : State) : Prop :=
  (∀ y, y ∉ w.regs → t.reg y = s.reg y) ∧
  (∀ a, (a < w.memFrom ∨ w.memFrom + w.memLen ≤ a) → t.readByte a = s.readByte a) ∧
  (w.i = false → t.i = s.i) ∧
  (w.dt = false → t.dt = s.dt) ∧
  (w.st = false → t.st = s.st) ∧
  (w.stack = false → t.stack = s.stack) ∧
  (w.fb = false → t.fb = s.fb) ∧
  (w.runState = false → t.runState = s.runState) ∧
  (w.lastError = false → t.lastError = s.lastError) ∧
  (w.refused = false → t.refused = s.refused) ∧
  (w.draws = false → t.draws = s.draws) ∧
  t.key = s.key ∧ t.config = s.config

/-- From `s` to `t` error `e` is raised and nothing else changes: pc stays at the instruction (R233, R234). -/
def Raises (e : CoreError) (s t : State) : Prop :=
  t.runState = .halted e ∧ t.lastError = some e ∧ t.pc = s.pc ∧
  Frame { runState := true, lastError := true } s t

/-- From `s` to `t` the refusal mark is set and nothing else changes (R12, R238). -/
def Refuses (r : RefuseReason) (s t : State) : Prop :=
  t.refused = some r ∧ t.pc = s.pc ∧ Frame { refused := true } s t

/-! ### The invariant of reachable states -/

/-- While Halted(e), `last_error` is e (R43); while WaitingForKey, the key wait at pc has been fetched (R42). -/
def State.runStateOk (s : State) : Bool :=
  match s.runState with
  | .running => true
  | .waitingForKey _ => decide s.fetchable
  | .halted e => decide (s.lastError = some e)

/-- The reserved region holds what it held at reset (R62, R75). -/
def State.reservedIntact (s : State) : Prop :=
  ∀ a, a < reservedEnd → s.readByte a = Memory.base s.config.font a

/-- What holds in every state the machine reaches: memory in canonical form, the reserved region intact (R62), at most 16
return addresses (R30), each at most 0x1000 (R31), pc at most 0x10FE (R25, R105), and `state` consistent (R42, R43). -/
structure Inv (s : State) : Prop where
  memory : Memory.wf s.config.font s.mem = true
  reserved : s.reservedIntact
  depth : s.depth ≤ stackDepth
  entries : ∀ a ∈ s.stack, a.toNat ≤ 0x1000
  pc : s.pc.toNat ≤ 0x10FE
  runState : s.runStateOk = true

/-! ### Sprites (R192, R193) -/

/-- A set bit of the n-row sprite at I, drawn at (V[x], V[y]), falls on pixel (row, col) (R192, R193). -/
def State.spriteCovers (s : State) (x y n : Nibble) (row : Fin 32) (col : Fin 64) : Prop :=
  ∃ r c : Nat, r < n.toNat ∧ c < 8 ∧ (s.readByte (s.i.toNat + r)).getLsbD (7 - c) = true ∧
    row.val = ((s.reg y).toNat + r) % 32 ∧ col.val = ((s.reg x).toNat + c) % 64

/-- The bytes an I-based access of `m` bytes touches are all inside memory (R61, R173). -/
abbrev State.blockInside (s : State) (m : Nat) : Prop := s.i.toNat + m ≤ memSize

/-- An instruction may write the `m` bytes at I (R62, R173). -/
abbrev State.blockWritable (s : State) (m : Nat) : Prop := reservedEnd ≤ s.i.toNat ∧ s.blockInside m

/-! ### The Unknown space (R89, R90) -/

/-- The words of R90's list, with CANONICAL_EXTRAS = `extras`. -/
def unknownWord (extras : Bool) (op : Word) : Prop :=
  (nib3 op = 0x5#4 ∧ nib0 op ≠ 0x0#4) ∨
  (nib3 op = 0x8#4 ∧ nib0 op ∈ [0x8#4, 0x9#4, 0xA#4, 0xB#4, 0xC#4, 0xD#4, 0xF#4]) ∨
  (nib3 op = 0x9#4 ∧ nib0 op ≠ 0x0#4) ∨
  (nib3 op = 0xE#4 ∧ fieldKk op ∉ [0x9E#8, 0xA1#8]) ∨
  (nib3 op = 0xF#4 ∧
    fieldKk op ∉ [0x07#8, 0x0A#8, 0x15#8, 0x18#8, 0x1E#8, 0x29#8, 0x33#8, 0x55#8, 0x65#8]) ∨
  (extras = false ∧ nib3 op = 0x0#4 ∧ op ≠ 0x00E0#16 ∧ op ≠ 0x00EE#16) ∨
  (extras = false ∧ nib3 op = 0x8#4 ∧ nib0 op = 0x7#4)

/-! ### Kinds of instruction -/

/-- The conditional skips (R119, R210, R211). -/
def isSkip : Instr → Bool
  | .seImm _ _ | .sneImm _ _ | .seReg _ _ | .sneReg _ _ | .skp _ | .sknp _ => true
  | _ => false

/-- The instructions that set pc to a target (R26). -/
def isTransfer : Instr → Bool
  | .ret | .jp _ | .call _ | .jpV0 _ => true
  | _ => false

/-- The instructions that read the keypad (R39). -/
def readsKeypad : Instr → Bool
  | .skp _ | .sknp _ | .ldVxK _ => true
  | _ => false

/-- The instructions that may write I (R24), with LOAD_STORE_INCREMENTS_I = `increments`. -/
def writesIndex (increments : Bool) : Instr → Bool
  | .ldI _ | .addI _ | .ldF _ => true
  | .ldMemRegs _ | .ldRegsMem _ => increments
  | _ => false

/-! ### How a run ends (R258) -/

/-- Fault end: never a successful end. -/
def State.faultEnd (s : State) : Prop := ∃ e, s.runState = .halted e

/-- Refusal: never a successful end (R238). -/
def State.refusalEnd (s : State) : Prop := s.refused ≠ none

/-- Idle end: pc addresses a jump to itself and state is Running. -/
def State.idleEnd (s : State) : Prop :=
  s.executes ∧ ∃ nnn : Addr, decodeWord s.config.canonicalExtras s.fetchWord = .ok (.jp nnn) ∧ nnn.toNat = s.pc.toNat

/-- Suspended: a key wait with no key down. -/
def State.suspendedEnd (s : State) : Prop :=
  s.refused = none ∧ (∃ x, s.runState = .waitingForKey x) ∧ ∀ k, s.isPressed k = false

/-! ### The host's duty (R251, log entry 10) -/

/-- The schedule keeps the host's duty: LoadProgram comes only after a Reset and before the first Cycle after it; `fresh`
says that no Cycle has been issued since the last Reset. -/
def loadsWhenFresh : Bool → List Transaction → Bool
  | _, [] => true
  | fresh, t :: ts =>
    match t with
    | .reset => loadsWhenFresh true ts
    | .cycle => loadsWhenFresh false ts
    | .loadProgram _ => fresh && loadsWhenFresh fresh ts
    | .tick | .submitKeyEvent _ _ | .framebufferSnapshot | .isSoundActive | .inspectState => loadsWhenFresh fresh ts

/-- Transactions that neither run an instruction nor replace the state: ticks, key events and observers. -/
def Transaction.isQuiet : Transaction → Bool
  | .tick | .submitKeyEvent _ _ | .framebufferSnapshot | .isSoundActive | .inspectState => true
  | .cycle | .reset | .loadProgram _ => false

end Sys2Proof.Machine
end

