-- ==== Sys2Proof/Certificates/Slice0/Obligations.lean ====
section
/-! DEFINITION. The statements for the provers, in the order of spec/: encoding, the cycle, reset and the invariant, rules of
the whole machine, one or more statements per instruction family, the host's transactions. A docstring names the rule, and
where a clause rests on a choice the spec marks as its own (D<n> of 92_eei_decisions.md) or on a log entry, it says so. -/

open Sys2Proof Sys2Proof.Machine

/-! ### Encoding and decoding (30_encoding.md) -/

/-- The words of §8 and one word of every other family, read as R88 reads them (patterns beyond §8's four words are the
spec's general knowledge G1). -/
def Obligations.DecodeReadsSpecWords : Prop :=
  decodeWord true 0x600A#16 = .ok (.ldImm 0x0#4 0x0A#8) ∧
  decodeWord true 0x7005#16 = .ok (.addImm 0x0#4 0x05#8) ∧
  decodeWord true 0x2204#16 = .ok (.call 0x204#12) ∧
  decodeWord true 0x00EE#16 = .ok .ret ∧
  decodeWord true 0x00E0#16 = .ok .cls ∧
  decodeWord true 0x00E1#16 = .ok (.sys 0x0E1#12) ∧
  decodeWord true 0x3342#16 = .ok (.seImm 0x3#4 0x42#8) ∧
  decodeWord true 0x8F14#16 = .ok (.addReg 0xF#4 0x1#4) ∧
  decodeWord true 0xF255#16 = .ok (.ldMemRegs 0x2#4) ∧
  decodeWord true 0xD123#16 = .ok (.drw 0x1#4 0x2#4 0x3#4) ∧
  decodeWord true 0xE59E#16 = .ok (.skp 0x5#4) ∧
  decodeWord true 0xF115#16 = .ok (.ldDt 0x1#4) ∧
  decodeWord true 0x5121#16 = .error (.unknown 0x5121#16)

/-- Decoding the bytes of a well-formed instruction gives it back, with the bytes after it untouched (R80, R87–R89). -/
def Obligations.DecodeOfEncodedBytes : Prop :=
  ∀ (extras : Bool) (i : Instr) (rest : List Byte), i.wf extras = true →
    decode extras (encodeBytes i ++ rest) = .ok (i, rest)

/-- Each word has one meaning: whatever a word decodes to encodes as that word, and is well-formed (R89). -/
def Obligations.EncodeOfDecodedWord : Prop :=
  ∀ (extras : Bool) (op : Word) (i : Instr), decodeWord extras op = .ok i → encode i = op ∧ i.wf extras = true

/-- The decoder is total, and the words it refuses are exactly those of R90 (which the spec marks as derived). -/
def Obligations.UnknownSpaceIsExactlyListed : Prop :=
  ∀ (extras : Bool) (op : Word),
    (unknownWord extras op → decodeWord extras op = .error (.unknown op)) ∧
    (¬ unknownWord extras op → ∃ i, decodeWord extras op = .ok i)

/-- R84: reassembling the nibbles gives back op, and so do the address and the immediate. -/
def Obligations.NibblesReassembleOpcode : Prop :=
  ∀ op : Word, nib3 op ++ nib2 op ++ nib1 op ++ nib0 op = op ∧
    nib3 op ++ fieldNnn op = op ∧ nib3 op ++ nib2 op ++ fieldKk op = op

/-! ### The cycle (30_encoding.md, 60_exceptions.md) -/

/-- R81, Running: where the word at pc decodes to an instruction, the step is that instruction's execution. -/
def Obligations.StepRunsDecodedInstruction : Prop :=
  ∀ (s : State) (i : Instr), s.executes → decodeWord s.config.canonicalExtras s.fetchWord = .ok i →
    step s = exec i s

/-- R82: the first byte is the high one. The fetch answers a word and no state, so it does not change pc. -/
def Obligations.FetchWordIsBigEndian : Prop :=
  ∀ s : State, s.fetchWord.toNat = 256 * (s.readByte s.pc.toNat).toNat + (s.readByte (s.pc.toNat + 1)).toNat

/-- R81, R235, R238: Cycle has no effect on a refused state (the model's reading, log entry 5) and on a Halted one (D27). -/
def Obligations.StepLeavesHaltedAndRefused : Prop :=
  ∀ s : State, (s.refused ≠ none ∨ ∃ e, s.runState = .halted e) → step s = .next s

/-- R81, WaitingForKey: with no key down nothing changes; otherwise a pressed key goes into the recorded register, pc moves
past the wait and the machine runs again. Which key is KEY_CHOICE (R9, D18; log entry 3). -/
def Obligations.StepCompletesKeyWait : Prop :=
  ∀ (s : State) (x : Nibble), s.refused = none → s.runState = .waitingForKey x → s.fetchable →
    ((∀ k, s.isPressed k = false) → step s = .next s) ∧
    ((∃ k, s.isPressed k = true) → ∃ (t : State) (k : Nibble), step s = .next t ∧ s.isPressed k = true ∧
      (s.config.keyChoice = .lowest → ∀ k', k'.toNat < k.toNat → s.isPressed k' = false) ∧
      (∀ name, s.config.keyChoice = .other name → s.isPressed (Config.keyFunction name s.key) = true →
        k = Config.keyFunction name s.key) ∧
      (t.reg x).toNat = k.toNat ∧ t.pc.toNat = s.pc.toNat + 2 ∧ t.runState = .running ∧
      Frame { regs := [x], runState := true } s t)

/-- R83: a fetch outside memory raises OutOfBoundsMemoryAccess; the payload is the spec's decision D5. -/
def Obligations.StepRaisesFetchFault : Prop :=
  ∀ s : State, s.refused = none → s.runState = .running →
    (0x1000 ≤ s.pc.toNat → ∃ t, step s = .next t ∧ Raises (.outOfBoundsMemoryAccess s.pc) s t) ∧
    (s.pc.toNat = 0xFFF → ∃ t, step s = .next t ∧ Raises (.outOfBoundsMemoryAccess 0x1000#16) s t)

/-- R236: an Unknown word halts, or under Skip is recorded (D26) and passed over. -/
def Obligations.StepOnUnknownWord : Prop :=
  ∀ s : State, s.executes → unknownWord s.config.canonicalExtras s.fetchWord →
    (s.config.invalidOpcodePolicy = .halt →
      ∃ t, step s = .next t ∧ Raises (.invalidOpcode s.fetchWord) s t) ∧
    (s.config.invalidOpcodePolicy = .skip →
      ∃ t, step s = .next t ∧ t.lastError = some (.invalidOpcode s.fetchWord) ∧ t.pc.toNat = s.pc.toNat + 2 ∧
        Frame { lastError := true } s t)

/-- R232: no step and no instruction aborts; each answers a next state, from every state: an error is recorded in it (log
entry 4), and a refused state steps to itself (log entry 5). R251 (D24; log entry 10): a schedule of host transactions runs
to its end exactly where every load in it keeps the host's duty. -/
def Obligations.NothingAbortsAndDutifulSchedulesRun : Prop :=
  (∀ s : State, ∃ t, step s = .next t) ∧ (∀ (i : Instr) (s : State), ∃ t, exec i s = .next t) ∧
  ∀ (ts : List Transaction) (y : System), (∃ z, runSchedule ts y = some z) ↔ loadsWhenFresh y.fresh ts = true

/-! ### Reset and the invariant (10_state.md, 70_reset_and_hazards.md) -/

/-- R48's table in the default configuration. Beyond the font, pc and Running its values are the spec's decision D22. -/
def Obligations.ResetStateValues : Prop :=
  (∀ a (h : a < 80), State.reset.readByte a = Font.default[a]) ∧ (∀ a, 80 ≤ a → State.reset.readByte a = 0x00#8) ∧
  (∀ x, State.reset.reg x = 0x00#8) ∧ State.reset.i = 0x0000#16 ∧ State.reset.pc = 0x200#16 ∧
  State.reset.dt = 0x00#8 ∧ State.reset.st = 0x00#8 ∧ State.reset.depth = 0 ∧
  (∀ row col, State.reset.fb.pixel row col = false) ∧ (∀ k, State.reset.isPressed k = false) ∧
  State.reset.runState = .running ∧ State.reset.lastError = none ∧ State.reset.refused = none ∧
  State.reset.config = Config.default

/-- R270: Reset sets every piece of state, from every state, and keeps the configuration (values by D22, D23). The host may
issue it at any time, and may load a program after it (R251). -/
def Obligations.ResetTransactionRestoresState : Prop :=
  ∀ y : System, ∃ t, transact .reset y = some ⟨t, true⟩ ∧ t.config = y.core.config ∧
    (∀ a (h : a < 80), t.readByte a = y.core.config.font[a]) ∧ (∀ a, 80 ≤ a → t.readByte a = 0x00#8) ∧
    (∀ x, t.reg x = 0x00#8) ∧ t.i = 0x0000#16 ∧ t.pc = 0x200#16 ∧ t.dt = 0x00#8 ∧ t.st = 0x00#8 ∧ t.depth = 0 ∧
    (∀ row col, t.fb.pixel row col = false) ∧ (∀ k, t.isPressed k = false) ∧
    t.runState = .running ∧ t.lastError = none ∧ t.refused = none

/-- The invariant holds right after reset, in every configuration. -/
def Obligations.ResetStateMeetsInvariant : Prop := Inv State.reset ∧ ∀ c : Config, Inv (State.resetWith c)

/-- Every step keeps the invariant: canonical memory, an untouched reserved region (R62), a stack of at most 16 exact return
addresses (R30, R31), pc at most 0x10FE (R25), and `state` consistent with `last_error` (R43). -/
def Obligations.StepKeepsInvariant : Prop := ∀ s t : State, Inv s → step s = .next t → Inv t

/-- Every schedule of the host's transactions keeps the invariant (R250; its bounds as in `StepKeepsInvariant`). -/
def Obligations.SchedulesKeepInvariant : Prop :=
  ∀ (ts : List Transaction) (y z : System), Inv y.core → runSchedule ts y = some z → Inv z.core

/-! ### Rules of the whole machine -/

/-- R62: no step writes the reserved region. -/
def Obligations.ReservedRegionNeverOverwritten : Prop :=
  ∀ s t : State, step s = .next t → ∀ a, a < 0x200 → t.readByte a = s.readByte a

/-- R234 (the spec's decision D4): an instruction that raises an error changes nothing but `state` and `last_error`. -/
def Obligations.RaisedErrorsChangeNothingElse : Prop :=
  ∀ (i : Instr) (s t : State) (e : CoreError), s.runState = .running → exec i s = .next t →
    t.runState = .halted e → Raises e s t

/-- R235 (with D25, D27, D35): whatever the host does without Reset, a Halted machine stays Halted, and timers, keys and
what a load may change apart, nothing moves. Without a load the reason stays too. A load, where its duty allows one (R251,
D24), may copy an image to 0x200 on or raise ProgramTooLarge (R272). -/
def Obligations.HaltedIsTerminalUntilReset : Prop :=
  ∀ (ts : List Transaction) (y : System) (e : CoreError), y.core.runState = .halted e → .reset ∉ ts →
    (∀ z, runSchedule ts y = some z →
      ((z.core.runState = .halted e ∧ z.core.lastError = y.core.lastError) ∨
       ∃ bytes, .loadProgram bytes ∈ ts ∧ 0x1000 < 0x200 + bytes.length ∧
         z.core.runState = .halted (.programTooLarge bytes.length) ∧
         z.core.lastError = some (.programTooLarge bytes.length)) ∧
      z.core.pc = y.core.pc ∧ (∀ x, z.core.reg x = y.core.reg x) ∧ z.core.i = y.core.i ∧
      z.core.stack = y.core.stack ∧ z.core.fb = y.core.fb ∧ z.core.refused = y.core.refused ∧
      ∀ a, a < 0x200 → z.core.readByte a = y.core.readByte a) ∧
    ((∀ bytes, .loadProgram bytes ∉ ts) → ∃ z, runSchedule ts y = some z ∧ z.core.runState = .halted e ∧
      z.core.lastError = y.core.lastError ∧ ∀ a, z.core.readByte a = y.core.readByte a)

/-- R28, R29: of all instructions only LD DT writes DT and only LD ST writes ST. -/
def Obligations.OnlyTimerLoadsWriteTimers : Prop :=
  ∀ (i : Instr) (s t : State), exec i s = .next t →
    (t.dt = s.dt ∨ ∃ x, i = .ldDt x) ∧ (t.st = s.st ∨ ∃ x, i = .ldSt x)

/-- Which instructions write what: the framebuffer CLS and DRW (R37), the stack CALL and RET (R31, R32), I those of R24,
memory LD B and LD [I] (R62), the random source RND (R10); the keypad none (R39) and the configuration none (R44). -/
def Obligations.StatePartsHaveOnlyTheirWriters : Prop :=
  ∀ (i : Instr) (s t : State), exec i s = .next t →
    (t.fb = s.fb ∨ i = .cls ∨ ∃ x y n, i = .drw x y n) ∧
    (t.stack = s.stack ∨ i = .ret ∨ ∃ nnn, i = .call nnn) ∧
    (t.i = s.i ∨ writesIndex s.config.loadStoreIncrementsI i = true) ∧
    ((∀ a, t.readByte a = s.readByte a) ∨ ∃ x, i = .ldB x ∨ i = .ldMemRegs x) ∧
    (t.draws = s.draws ∨ ∃ x kk, i = .rnd x kk) ∧
    t.key = s.key ∧ t.config = s.config

/-- R26: pc advances by 2, by 4 at a skip, is set by a control transfer, or stays: at an error, at a refusal (log entry 5),
and at a key wait. -/
def Obligations.PcMovesOnlyAsAllowed : Prop :=
  ∀ (i : Instr) (s t : State), s.executes → exec i s = .next t →
    t.pc.toNat = s.pc.toNat + 2 ∨ (t.pc.toNat = s.pc.toNat + 4 ∧ isSkip i = true) ∨ isTransfer i = true ∨
    (t.pc = s.pc ∧ ((∃ e, t.runState = .halted e) ∨ t.refused ≠ none ∨
      ∃ x, i = .ldVxK x ∧ t.runState = .waitingForKey x))

/-- R29: no instruction reads ST. Two states that differ only in ST step to states that differ only in ST. (The host reads
it, R253, R255.) -/
def Obligations.StepsDoNotReadSoundTimer : Prop :=
  ∀ (s t : State) (b : Byte), step s = .next t → ∃ b', step (s.setSt b) = .next (t.setSt b')

/-- R39, R239: an instruction other than SKP, SKNP and LD Vx,K does the same whatever keys are down. -/
def Obligations.KeypadReadOnlyByKeyInstructions : Prop :=
  ∀ (i : Instr) (s t : State) (k : Nibble) (p : Bool), readsKeypad i = false → exec i s = .next t →
    exec i (s.setKey k p) = .next (t.setKey k p)

/-- R238 (D16, D17, D36; log entry 5): the refusal mark is set by LD F, SKP and SKNP on a value above 0xF, and then nothing
else changes; by nothing else. -/
def Obligations.RefusalMarkOnlyOutOfRange : Prop :=
  ∀ (i : Instr) (s t : State), exec i s = .next t → t.refused ≠ s.refused →
    (∃ x, i = .ldF x ∧ 0xF < (s.reg x).toNat ∧ Refuses (.fontDigitOutOfRange (s.reg x)) s t) ∨
    (∃ x, (i = .skp x ∨ i = .sknp x) ∧ 0xF < (s.reg x).toNat ∧ Refuses (.keyOutOfRange (s.reg x)) s t)

/-- R44: no instruction and no host call changes the configuration. -/
def Obligations.SchedulesKeepConfiguration : Prop :=
  ∀ (ts : List Transaction) (y z : System), runSchedule ts y = some z → z.core.config = y.core.config

/-! ### Control transfer (40_control_flow.md) -/

/-- R101 (the spec's decisions D7, D8): SYS only advances. -/
def Obligations.SysOnlyAdvances : Prop :=
  ∀ (nnn : Addr) (s : State), s.fetchable →
    ∃ t, exec (.sys nnn) s = .next t ∧ t.pc.toNat = s.pc.toNat + 2 ∧ Frame {} s t

/-- R102, word 0x00EE: RET pops its target; at depth 0 it raises StackUnderflow and pc stays. -/
def Obligations.RetPopsOrUnderflows : Prop :=
  encode .ret = 0x00EE#16 ∧
  (∀ (s : State) (a : Word) (l : List Word), s.stack = a :: l →
    ∃ t, exec .ret s = .next t ∧ t.pc = a ∧ t.stack = l ∧ t.depth + 1 = s.depth ∧ Frame { stack := true } s t) ∧
  (∀ s : State, s.depth = 0 → ∃ t, exec .ret s = .next t ∧ Raises .stackUnderflow s t)

/-- R103: JP sets pc to nnn. -/
def Obligations.JpSetsPc : Prop :=
  ∀ (nnn : Addr) (s : State), ∃ t, exec (.jp nnn) s = .next t ∧ t.pc.toNat = nnn.toNat ∧ Frame {} s t

/-- R104, R31: CALL pushes the exact address after it (exactness: D28) and jumps; at depth 16 it raises StackOverflow. -/
def Obligations.CallPushesOrOverflows : Prop :=
  ∀ (nnn : Addr) (s : State), s.fetchable →
    (s.depth < 16 → ∃ t a, exec (.call nnn) s = .next t ∧ a.toNat = s.pc.toNat + 2 ∧ t.stack = a :: s.stack ∧
      t.stackAt s.depth = some a ∧ t.depth = s.depth + 1 ∧ t.pc.toNat = nnn.toNat ∧ Frame { stack := true } s t) ∧
    (16 ≤ s.depth → ∃ t, exec (.call nnn) s = .next t ∧ Raises .stackOverflow s t)

/-- R100, R102, R104: a RET after a CALL, with whatever happened between them that left the stack as the CALL left it,
returns to the instruction after the CALL and restores the stack. -/
def Obligations.CallThenRetReturnsAfterCall : Prop :=
  ∀ (nnn : Addr) (s : State), s.fetchable → s.depth < 16 →
    ∃ t, exec (.call nnn) s = .next t ∧ ∀ t' : State, t'.stack = t.stack →
      ∃ u, exec .ret t' = .next u ∧ u.pc.toNat = s.pc.toNat + 2 ∧ u.stack = s.stack

/-- R105: the target is the exact sum of nnn and the offset register (D2, D13), in both configurations. -/
def Obligations.JpV0AddsOffset : Prop :=
  ∀ (nnn : Addr) (s : State), ∃ t, exec (.jpV0 nnn) s = .next t ∧
    (s.config.jumpOffsetUsesVx = false → t.pc.toNat = nnn.toNat + (s.reg 0x0#4).toNat) ∧
    (s.config.jumpOffsetUsesVx = true → t.pc.toNat = nnn.toNat + (s.reg (nnn.extractLsb' 8 4)).toNat) ∧
    Frame {} s t

/-! ### Conditional skips (41_skips.md) -/

/-- R119–R123: each of the four skips moves pc by 4 where its condition holds and by 2 where not (exact sums: D2), and
changes nothing else. -/
def Obligations.SkipsMovePcByCondition : Prop :=
  ∀ (x y : Nibble) (kk : Byte) (s : State), s.fetchable →
    (∃ t, exec (.seImm x kk) s = .next t ∧ t.pc.toNat = s.pc.toNat + (if s.reg x = kk then 4 else 2) ∧
      Frame {} s t) ∧
    (∃ t, exec (.sneImm x kk) s = .next t ∧ t.pc.toNat = s.pc.toNat + (if s.reg x = kk then 2 else 4) ∧
      Frame {} s t) ∧
    (∃ t, exec (.seReg x y) s = .next t ∧ t.pc.toNat = s.pc.toNat + (if s.reg x = s.reg y then 4 else 2) ∧
      Frame {} s t) ∧
    (∃ t, exec (.sneReg x y) s = .next t ∧ t.pc.toNat = s.pc.toNat + (if s.reg x = s.reg y then 2 else 4) ∧
      Frame {} s t)

/-! ### Register loads and arithmetic (42_alu.md) -/

/-- R141, R142: LD Vx,kk (6xkk) loads kk; ADD Vx,kk (7xkk) adds modulo 256; neither touches VF unless x = F. -/
def Obligations.ImmediateLoadAndAdd : Prop :=
  ∀ (x : Nibble) (kk : Byte) (s : State), s.fetchable →
    encode (.ldImm x kk) = 0x6#4 ++ x ++ kk ∧ encode (.addImm x kk) = 0x7#4 ++ x ++ kk ∧
    (∃ t, exec (.ldImm x kk) s = .next t ∧ t.reg x = kk ∧ t.pc.toNat = s.pc.toNat + 2 ∧
      Frame { regs := [x] } s t) ∧
    (∃ t, exec (.addImm x kk) s = .next t ∧ (t.reg x).toNat = ((s.reg x).toNat + kk.toNat) % 256 ∧
      t.pc.toNat = s.pc.toNat + 2 ∧ Frame { regs := [x] } s t)

/-- R143: LD Vx,Vy copies. -/
def Obligations.LdRegCopies : Prop :=
  ∀ (x y : Nibble) (s : State), s.fetchable →
    ∃ t, exec (.ldReg x y) s = .next t ∧ t.reg x = s.reg y ∧ t.pc.toNat = s.pc.toNat + 2 ∧ Frame { regs := [x] } s t

/-- The shared form of OR, AND and XOR (R144–R146): with VF_RESET_ON_LOGIC VF ends 0 (D10, D11), otherwise VF is an
ordinary register. -/
def LogicResult (x : Nibble) (r : Byte) (s t : State) : Prop :=
  t.pc.toNat = s.pc.toNat + 2 ∧
  (s.config.vfResetOnLogic = false → t.reg x = r ∧ Frame { regs := [x] } s t) ∧
  (s.config.vfResetOnLogic = true → (x ≠ 0xF#4 → t.reg x = r) ∧ t.reg 0xF#4 = 0#8 ∧ Frame { regs := [x, 0xF#4] } s t)

/-- R144–R146 (D11): the bitwise operations, bit by bit. -/
def Obligations.LogicOpsCombineBits : Prop :=
  ∀ (x y : Nibble) (s : State), s.fetchable → ∃ o a e : Byte,
    (∀ n, o.getLsbD n = ((s.reg x).getLsbD n || (s.reg y).getLsbD n)) ∧
    (∀ n, a.getLsbD n = ((s.reg x).getLsbD n && (s.reg y).getLsbD n)) ∧
    (∀ n, e.getLsbD n = ((s.reg x).getLsbD n ^^ (s.reg y).getLsbD n)) ∧
    (∃ t, exec (.or x y) s = .next t ∧ LogicResult x o s t) ∧
    (∃ t, exec (.and x y) s = .next t ∧ LogicResult x a s t) ∧
    (∃ t, exec (.xor x y) s = .next t ∧ LogicResult x e s t)

/-- The shared form of the instructions that write a flag: the result in Vx unless x = F, the flag in VF always (R140,
D10). -/
def FlaggedResult (x : Nibble) (r : Nat) (flag : Prop) (s t : State) : Prop :=
  (x ≠ 0xF#4 → (t.reg x).toNat = r) ∧ (flag → t.reg 0xF#4 = 1#8) ∧ (¬ flag → t.reg 0xF#4 = 0#8) ∧
  t.pc.toNat = s.pc.toNat + 2 ∧ Frame { regs := [x, 0xF#4] } s t

/-- R147 (order at x = F: D10): the sum modulo 256, VF = 1 iff it is above 255. -/
def Obligations.AddRegSumAndCarry : Prop :=
  ∀ (x y : Nibble) (s : State), s.fetchable → ∃ t, exec (.addReg x y) s = .next t ∧
    FlaggedResult x (((s.reg x).toNat + (s.reg y).toNat) % 256) ((s.reg x).toNat + (s.reg y).toNat > 255) s t

/-- R148, R150 (order at x = F: D10; SUBN: D9): the difference modulo 256, VF = 1 iff there is no borrow. -/
def Obligations.SubtractionsAndNotBorrow : Prop :=
  ∀ (x y : Nibble) (s : State), s.fetchable →
    (∃ t, exec (.sub x y) s = .next t ∧
      FlaggedResult x (((s.reg x).toNat + 256 - (s.reg y).toNat) % 256) ((s.reg x).toNat ≥ (s.reg y).toNat) s t) ∧
    (∃ t, exec (.subn x y) s = .next t ∧
      FlaggedResult x (((s.reg y).toNat + 256 - (s.reg x).toNat) % 256) ((s.reg y).toNat ≥ (s.reg x).toNat) s t)

/-- R149, R151 (D10, D12): shifts by one of Vx, or of Vy with SHIFT_USES_VY; VF = the bit shifted out. -/
def Obligations.ShiftsByOne : Prop :=
  ∀ (x y : Nibble) (s : State) (v : Byte), s.fetchable →
    v = (if s.config.shiftUsesVy = true then s.reg y else s.reg x) →
    (∃ t, exec (.shr x y) s = .next t ∧ FlaggedResult x (v.toNat / 2) (v.toNat % 2 = 1) s t) ∧
    (∃ t, exec (.shl x y) s = .next t ∧ FlaggedResult x (2 * v.toNat % 256) (v.toNat ≥ 128) s t)

/-- R10, R152 (log entry 2): the next draw masked with kk. It holds for every value the draw may have. -/
def Obligations.RndMasksFreshByte : Prop :=
  ∀ (x : Nibble) (kk : Byte) (s : State), s.fetchable →
    ∃ t, exec (.rnd x kk) s = .next t ∧ t.reg x = Config.randomByte s.draws &&& kk ∧
      (∀ n, (t.reg x).getLsbD n = true → kk.getLsbD n = true) ∧ t.draws = s.draws + 1 ∧
      t.pc.toNat = s.pc.toNat + 2 ∧ Frame { regs := [x], draws := true } s t

/-! ### Index register and memory (43_index_memory.md) -/

/-- R171, R172 (D15): LD I zero-extends; ADD I adds modulo 65536. VF is not written. -/
def Obligations.IndexLoadAndAdd : Prop :=
  ∀ (nnn : Addr) (x : Nibble) (s : State), s.fetchable →
    (∃ t, exec (.ldI nnn) s = .next t ∧ t.i.toNat = nnn.toNat ∧ t.pc.toNat = s.pc.toNat + 2 ∧
      Frame { i := true } s t) ∧
    (∃ t, exec (.addI x) s = .next t ∧ t.i.toNat = (s.i.toNat + (s.reg x).toNat) % 65536 ∧
      t.pc.toNat = s.pc.toNat + 2 ∧ Frame { i := true } s t)

/-- R174 (D16, D21; refusal R238, log entry 5): I points at the glyph of a digit, whose five bytes are then the font's while
the reserved region is intact; above 0xF only the refusal mark is set. -/
def Obligations.LdFPointsAtGlyph : Prop :=
  ∀ (x : Nibble) (s : State), s.fetchable →
    ((s.reg x).toNat ≤ 0xF → ∃ t, exec (.ldF x) s = .next t ∧ t.i.toNat = 5 * (s.reg x).toNat ∧
      t.pc.toNat = s.pc.toNat + 2 ∧ Frame { i := true } s t ∧
      (s.reservedIntact → ∀ k (_ : k < 5) (h : 5 * (s.reg x).toNat + k < 80),
        t.readByte (t.i.toNat + k) = s.config.font[5 * (s.reg x).toNat + k])) ∧
    (0xF < (s.reg x).toNat →
      ∃ t, exec (.ldF x) s = .next t ∧ Refuses (.fontDigitOutOfRange (s.reg x)) s t)

/-- R175: the three decimal digits at I, I+1, I+2. -/
def Obligations.LdBStoresDigits : Prop :=
  ∀ (x : Nibble) (s : State), s.fetchable → s.blockWritable 3 → Memory.wf s.config.font s.mem = true →
    ∃ t, exec (.ldB x) s = .next t ∧
      (t.readByte s.i.toNat).toNat = (s.reg x).toNat / 100 ∧
      (t.readByte (s.i.toNat + 1)).toNat = (s.reg x).toNat / 10 % 10 ∧
      (t.readByte (s.i.toNat + 2)).toNat = (s.reg x).toNat % 10 ∧
      t.pc.toNat = s.pc.toNat + 2 ∧ Frame { memFrom := s.i.toNat, memLen := 3 } s t

/-- I after a block transfer: unchanged, or plus x + 1 with LOAD_STORE_INCREMENTS_I (D14). -/
def BlockIndex (x : Nibble) (s t : State) : Prop :=
  (s.config.loadStoreIncrementsI = false → t.i = s.i) ∧
  (s.config.loadStoreIncrementsI = true → t.i.toNat = (s.i.toNat + x.toNat + 1) % 65536)

/-- R176 (D14): V0..Vx, inclusive, at I on. -/
def Obligations.LdMemRegsStoresRegisters : Prop :=
  ∀ (x : Nibble) (s : State), s.fetchable → s.blockWritable (x.toNat + 1) →
    Memory.wf s.config.font s.mem = true →
    ∃ t, exec (.ldMemRegs x) s = .next t ∧
      (∀ k : Nibble, k.toNat ≤ x.toNat → t.readByte (s.i.toNat + k.toNat) = s.reg k) ∧ BlockIndex x s t ∧
      t.pc.toNat = s.pc.toNat + 2 ∧ Frame { memFrom := s.i.toNat, memLen := x.toNat + 1, i := true } s t

/-- R177 (D14): V0..Vx, inclusive, from I on; the registers above Vx keep their values. -/
def Obligations.LdRegsMemLoadsRegisters : Prop :=
  ∀ (x : Nibble) (s : State), s.fetchable → s.blockInside (x.toNat + 1) →
    ∃ t, exec (.ldRegsMem x) s = .next t ∧
      (∀ k : Nibble, k.toNat ≤ x.toNat → t.reg k = s.readByte (s.i.toNat + k.toNat)) ∧
      (∀ k : Nibble, x.toNat < k.toNat → t.reg k = s.reg k) ∧ BlockIndex x s t ∧ t.pc.toNat = s.pc.toNat + 2 ∧
      ∀ r : List Nibble, (∀ k : Nibble, k ∈ r ↔ k.toNat ≤ x.toNat) → Frame { regs := r, i := true } s t

/-- R61, R62, R173 (payload D5, the error below 0x200 D6): an access past the end of memory raises the error at the lowest
address outside, a write below 0x200 raises it at I, and nothing else changes. -/
def Obligations.BlockAccessFaults : Prop :=
  ∀ (x y n : Nibble) (s : State) (a : Word), a.toNat = max s.i.toNat 0x1000 →
    (0x1000 < s.i.toNat + 3 → ∃ t, exec (.ldB x) s = .next t ∧ Raises (.outOfBoundsMemoryAccess a) s t) ∧
    (s.i.toNat < 0x200 → ∃ t, exec (.ldB x) s = .next t ∧ Raises (.outOfBoundsMemoryAccess s.i) s t) ∧
    (0x1000 < s.i.toNat + x.toNat + 1 →
      ∃ t, exec (.ldMemRegs x) s = .next t ∧ Raises (.outOfBoundsMemoryAccess a) s t) ∧
    (s.i.toNat < 0x200 → ∃ t, exec (.ldMemRegs x) s = .next t ∧ Raises (.outOfBoundsMemoryAccess s.i) s t) ∧
    (0x1000 < s.i.toNat + x.toNat + 1 →
      ∃ t, exec (.ldRegsMem x) s = .next t ∧ Raises (.outOfBoundsMemoryAccess a) s t) ∧
    (1 ≤ n.toNat → 0x1000 < s.i.toNat + n.toNat →
      ∃ t, exec (.drw x y n) s = .next t ∧ Raises (.outOfBoundsMemoryAccess a) s t)

/-- R64, R176, R177: a register dump followed by a register load at the same I, with whatever happened between them that
left memory as the dump left it, restores V0..Vx. -/
def Obligations.DumpThenLoadRestoresRegisters : Prop :=
  ∀ (x : Nibble) (s : State), s.fetchable → s.blockWritable (x.toNat + 1) →
    Memory.wf s.config.font s.mem = true →
    ∃ t, exec (.ldMemRegs x) s = .next t ∧ ∀ t' : State, t'.i = s.i → (∀ a, t'.readByte a = t.readByte a) →
      ∃ u, exec (.ldRegsMem x) t' = .next u ∧ ∀ k : Nibble, k.toNat ≤ x.toNat → u.reg k = s.reg k

/-- The k-th of the three digits LD B stores, the hundreds first (R175). -/
def decimalDigit (v : Byte) : Nat → Nat
  | 0 => v.toNat / 100
  | 1 => v.toNat / 10 % 10
  | _ => v.toNat % 10

/-- In state `u` a fetch reads the byte at address `a` as `b`: as the high byte where pc is `a`, as the low byte where pc is
the address before it (R82). -/
def FetchSees (u : State) (a : Nat) (b : Byte) : Prop :=
  (u.pc.toNat = a → u.fetchWord.extractLsb' 8 8 = b) ∧ (u.pc.toNat + 1 = a → u.fetchWord.extractLsb' 0 8 = b)

/-- R75, R276: a byte that LD B or LD [I] has stored is what a fetch at its address reads, in the next state and in every
state in which that address still reads as the store left it. -/
def Obligations.StoredBytesAreFetched : Prop :=
  ∀ (x : Nibble) (s : State), s.fetchable → Memory.wf s.config.font s.mem = true →
    (s.blockWritable 3 → ∃ t, exec (.ldB x) s = .next t ∧ ∀ k < 3, ∃ b : Byte,
      b.toNat = decimalDigit (s.reg x) k ∧
      ∀ u : State, u.readByte (s.i.toNat + k) = t.readByte (s.i.toNat + k) → FetchSees u (s.i.toNat + k) b) ∧
    (s.blockWritable (x.toNat + 1) → ∃ t, exec (.ldMemRegs x) s = .next t ∧ ∀ k : Nibble, k.toNat ≤ x.toNat →
      ∀ u : State, u.readByte (s.i.toNat + k.toNat) = t.readByte (s.i.toNat + k.toNat) →
        FetchSees u (s.i.toNat + k.toNat) (s.reg k))

/-! ### Display (44_display.md) -/

/-- R191: CLS turns every pixel off; VF is not written. -/
def Obligations.ClsClearsEveryPixel : Prop :=
  ∀ s : State, s.fetchable →
    ∃ t, exec .cls s = .next t ∧ (∀ row col, t.fb.pixel row col = false) ∧ t.pc.toNat = s.pc.toNat + 2 ∧
      Frame { fb := true } s t

/-- R192, R193 (D19, D20): exactly the pixels under set sprite bits change, and VF says whether one of them was on. With
n = 0 there is no memory to read. I is not modified. -/
def Obligations.DrwXorsSprite : Prop :=
  ∀ (x y n : Nibble) (s : State), s.fetchable → (n.toNat = 0 ∨ s.blockInside n.toNat) →
    ∃ t, exec (.drw x y n) s = .next t ∧
      (∀ row col, t.fb.pixel row col = true ↔
        ((s.fb.pixel row col = true ∧ ¬ s.spriteCovers x y n row col) ∨
         (s.fb.pixel row col = false ∧ s.spriteCovers x y n row col))) ∧
      ((∃ row col, s.spriteCovers x y n row col ∧ s.fb.pixel row col = true) → t.reg 0xF#4 = 1#8) ∧
      ((∀ row col, s.spriteCovers x y n row col → s.fb.pixel row col = false) → t.reg 0xF#4 = 0#8) ∧
      t.pc.toNat = s.pc.toNat + 2 ∧ Frame { regs := [0xF#4], fb := true } s t

/-- R194: drawing the same sprite again at the same place restores the framebuffer, and that second draw collides iff the
first one turned a pixel on. -/
def Obligations.DrwTwiceRestoresFramebuffer : Prop :=
  ∀ (x y n : Nibble) (s : State), s.fetchable → (n.toNat = 0 ∨ s.blockInside n.toNat) →
    ∃ t, exec (.drw x y n) s = .next t ∧ ∀ t' : State, t'.fb = t.fb → t'.i = s.i → t'.reg x = s.reg x →
      t'.reg y = s.reg y → (∀ a, t'.readByte a = s.readByte a) →
      ∃ u, exec (.drw x y n) t' = .next u ∧ u.fb = s.fb ∧
        (u.reg 0xF#4 = 1#8 ↔ ∃ row col, s.fb.pixel row col = false ∧ t.fb.pixel row col = true)

/-! ### Keypad and timers (45_keypad_timers.md) -/

/-- R210, R211 (D17; refusal R238, log entry 5): SKP skips iff the key is down, SKNP iff it is not; a value above 0xF only
sets the refusal mark. -/
def Obligations.KeySkipsReadOneKey : Prop :=
  ∀ (x k : Nibble) (s : State), s.fetchable →
    ((s.reg x).toNat = k.toNat →
      (∃ t, exec (.skp x) s = .next t ∧ t.pc.toNat = s.pc.toNat + (if s.isPressed k = true then 4 else 2) ∧
        Frame {} s t) ∧
      (∃ t, exec (.sknp x) s = .next t ∧ t.pc.toNat = s.pc.toNat + (if s.isPressed k = true then 2 else 4) ∧
        Frame {} s t)) ∧
    (0xF < (s.reg x).toNat →
      (∃ t, exec (.skp x) s = .next t ∧ Refuses (.keyOutOfRange (s.reg x)) s t) ∧
      (∃ t, exec (.sknp x) s = .next t ∧ Refuses (.keyOutOfRange (s.reg x)) s t))

/-- R212, R214, R215: reading DT, setting DT, setting ST. -/
def Obligations.TimerTransfers : Prop :=
  ∀ (x : Nibble) (s : State), s.fetchable →
    (∃ t, exec (.ldVxDt x) s = .next t ∧ t.reg x = s.dt ∧ t.pc.toNat = s.pc.toNat + 2 ∧
      Frame { regs := [x] } s t) ∧
    (∃ t, exec (.ldDt x) s = .next t ∧ t.dt = s.reg x ∧ t.pc.toNat = s.pc.toNat + 2 ∧ Frame { dt := true } s t) ∧
    (∃ t, exec (.ldSt x) s = .next t ∧ t.st = s.reg x ∧ t.pc.toNat = s.pc.toNat + 2 ∧ Frame { st := true } s t)

/-- R213 (D18; log entry 3): with a key down LD Vx,K stores a pressed key at once; with none it waits, pc unchanged. -/
def Obligations.LdVxKStoresOrWaits : Prop :=
  ∀ (x : Nibble) (s : State), s.fetchable →
    ((∃ k, s.isPressed k = true) → ∃ (t : State) (k : Nibble), exec (.ldVxK x) s = .next t ∧
      s.isPressed k = true ∧
      (s.config.keyChoice = .lowest → ∀ k', k'.toNat < k.toNat → s.isPressed k' = false) ∧
      (∀ name, s.config.keyChoice = .other name → s.isPressed (Config.keyFunction name s.key) = true →
        k = Config.keyFunction name s.key) ∧
      (t.reg x).toNat = k.toNat ∧ t.pc.toNat = s.pc.toNat + 2 ∧ Frame { regs := [x] } s t) ∧
    ((∀ k, s.isPressed k = false) → ∃ t, exec (.ldVxK x) s = .next t ∧ t.runState = .waitingForKey x ∧
      t.pc = s.pc ∧ Frame { runState := true } s t)

/-! ### Host transactions (60_exceptions.md, 70_reset_and_hazards.md) -/

/-- R245, R247: in every interpreter state (D25; of a refused state, log entry 5) each timer above 0 goes down by 1, a timer
at 0 stays, and Tick touches nothing else. -/
def Obligations.TickDecrementsTimers : Prop :=
  ∀ y : System, ∃ t, transact .tick y = some ⟨t, y.fresh⟩ ∧
    (0 < y.core.dt.toNat → t.dt.toNat + 1 = y.core.dt.toNat) ∧ (y.core.dt.toNat = 0 → t.dt.toNat = 0) ∧
    (0 < y.core.st.toNat → t.st.toNat + 1 = y.core.st.toNat) ∧ (y.core.st.toNat = 0 → t.st.toNat = 0) ∧
    t.pc = y.core.pc ∧ Frame { dt := true, st := true } y.core t

/-- R245, R246: after any schedule of ticks, key events and observers, in every interpreter state (D25; of a refused state,
log entry 5), each timer has gone down by the number of ticks, and not below 0. -/
def Obligations.TicksSubtractFromTimers : Prop :=
  ∀ (ts : List Transaction) (y : System), (∀ r ∈ ts, r.isQuiet = true) →
    ∃ z, runSchedule ts y = some z ∧ z.core.dt.toNat = y.core.dt.toNat - ts.count .tick ∧
      z.core.st.toNat = y.core.st.toNat - ts.count .tick

/-- R251, R272 (D24; log entry 10): before the first Cycle after a Reset, an image that fits is copied to 0x200 on and
nothing else changes; one that does not raises ProgramTooLarge and no byte is copied. After that Cycle the host has no such
move. -/
def Obligations.LoadProgramCopiesOrHaltsOrHasNoMove : Prop :=
  ∀ (bytes : List Byte) (y : System), Memory.wf y.core.config.font y.core.mem = true →
    (y.fresh = true → 0x200 + bytes.length ≤ 0x1000 → ∃ t, transact (.loadProgram bytes) y = some ⟨t, true⟩ ∧
      (∀ j (h : j < bytes.length), t.readByte (0x200 + j) = bytes[j]) ∧ t.pc = y.core.pc ∧
      Frame { memFrom := 0x200, memLen := bytes.length } y.core t) ∧
    (y.fresh = true → 0x1000 < 0x200 + bytes.length → ∃ t, transact (.loadProgram bytes) y = some ⟨t, true⟩ ∧
      Raises (.programTooLarge bytes.length) y.core t) ∧
    (y.fresh = false → transact (.loadProgram bytes) y = none)

/-- R252–R255 (D29, D35, D38; of a refused state, log entry 5): a key event changes that key alone; the observers change
nothing and answer ST > 0, the framebuffer, and the listed parts of the state. -/
def Obligations.KeyEventsAndObservers : Prop :=
  ∀ (k : Nibble) (p : Bool) (y : System),
    (∃ t, transact (.submitKeyEvent k p) y = some ⟨t, y.fresh⟩ ∧ t.isPressed k = p ∧
      (∀ k', k' ≠ k → t.isPressed k' = y.core.isPressed k') ∧ t = { y.core with key := t.key }) ∧
    transact .framebufferSnapshot y = some y ∧ respond .framebufferSnapshot y.core = .framebuffer y.core.fb ∧
    transact .isSoundActive y = some y ∧ respond .isSoundActive y.core = .sound (decide (0 < y.core.st.toNat)) ∧
    transact .inspectState y = some y ∧ ∃ r, respond .inspectState y.core = .inspection r ∧ r.v = y.core.v ∧
      r.i = y.core.i ∧ r.pc = y.core.pc ∧ r.dt = y.core.dt ∧ r.st = y.core.st ∧ r.depth = y.core.depth ∧
      r.runState = y.core.runState ∧ r.lastError = y.core.lastError

/-- R103, R258: a jump to itself is a fixed point of Cycle (the idle end, the spec's decision D39). -/
def Obligations.SelfJumpIsIdle : Prop := ∀ s : State, s.idleEnd → step s = .next s
end

