-- ==== Sys2Proof/Laws/Decode.lean ====
section
/-! SUPPORT. The fields of a word put together from fields, one lemma per format of R87, and the bytes of a word. -/

namespace Sys2Proof

/-! Format A (`oooo nnnn nnnn nnnn`). -/

@[simp] theorem nib3_formatA (o : Nibble) (nnn : Addr) : nib3 (o ++ nnn) = o := by
  apply BitVec.eq_of_toNat_eq
  have := nnn.isLt
  simp only [nib3, BitVec.extractLsb'_toNat, BitVec.toNat_append, Nat.shiftRight_eq_div_pow, Nat.shiftLeft_eq]
  rw [← Nat.shiftLeft_eq, ← Nat.shiftLeft_add_eq_or_of_lt (by omega), Nat.shiftLeft_eq]
  omega

@[simp] theorem fieldNnn_formatA (o : Nibble) (nnn : Addr) : fieldNnn (o ++ nnn) = nnn := by
  apply BitVec.eq_of_toNat_eq
  have := nnn.isLt
  simp only [fieldNnn, BitVec.extractLsb'_toNat, BitVec.toNat_append, Nat.shiftRight_zero]
  rw [← Nat.shiftLeft_add_eq_or_of_lt (by omega), Nat.shiftLeft_eq]
  omega

/-! Formats XK and XF (`oooo xxxx kkkk kkkk`). -/

theorem toNat_formatXK (o x : Nibble) (kk : Byte) :
    (o ++ x ++ kk).toNat = o.toNat * 4096 + x.toNat * 256 + kk.toNat := by
  have := x.isLt
  have := kk.isLt
  rw [BitVec.toNat_append, BitVec.toNat_append, ← Nat.shiftLeft_add_eq_or_of_lt (by omega),
    ← Nat.shiftLeft_add_eq_or_of_lt (by omega), Nat.shiftLeft_eq, Nat.shiftLeft_eq]
  omega

@[simp] theorem nib3_formatXK (o x : Nibble) (kk : Byte) : nib3 (o ++ x ++ kk) = o := by
  apply BitVec.eq_of_toNat_eq
  have := x.isLt
  have := kk.isLt
  rw [nib3, BitVec.extractLsb'_toNat, toNat_formatXK, Nat.shiftRight_eq_div_pow]
  omega

@[simp] theorem nib2_formatXK (o x : Nibble) (kk : Byte) : nib2 (o ++ x ++ kk) = x := by
  apply BitVec.eq_of_toNat_eq
  have := x.isLt
  have := kk.isLt
  rw [nib2, BitVec.extractLsb'_toNat, toNat_formatXK, Nat.shiftRight_eq_div_pow]
  omega

@[simp] theorem fieldKk_formatXK (o x : Nibble) (kk : Byte) : fieldKk (o ++ x ++ kk) = kk := by
  apply BitVec.eq_of_toNat_eq
  have := x.isLt
  have := kk.isLt
  rw [fieldKk, BitVec.extractLsb'_toNat, toNat_formatXK, Nat.shiftRight_zero]
  omega

/-! Formats XY and XYN (`oooo xxxx yyyy nnnn`). -/

theorem toNat_formatXYN (o x y n : Nibble) :
    (o ++ x ++ y ++ n).toNat = o.toNat * 4096 + x.toNat * 256 + y.toNat * 16 + n.toNat := by
  have := x.isLt
  have := y.isLt
  have := n.isLt
  rw [BitVec.toNat_append, BitVec.toNat_append, BitVec.toNat_append, ← Nat.shiftLeft_add_eq_or_of_lt (by omega),
    ← Nat.shiftLeft_add_eq_or_of_lt (by omega), ← Nat.shiftLeft_add_eq_or_of_lt (by omega), Nat.shiftLeft_eq,
    Nat.shiftLeft_eq, Nat.shiftLeft_eq]
  omega

@[simp] theorem nib3_formatXYN (o x y n : Nibble) : nib3 (o ++ x ++ y ++ n) = o := by
  apply BitVec.eq_of_toNat_eq
  have := x.isLt
  have := y.isLt
  have := n.isLt
  rw [nib3, BitVec.extractLsb'_toNat, toNat_formatXYN, Nat.shiftRight_eq_div_pow]
  omega

@[simp] theorem nib2_formatXYN (o x y n : Nibble) : nib2 (o ++ x ++ y ++ n) = x := by
  apply BitVec.eq_of_toNat_eq
  have := x.isLt
  have := y.isLt
  have := n.isLt
  rw [nib2, BitVec.extractLsb'_toNat, toNat_formatXYN, Nat.shiftRight_eq_div_pow]
  omega

@[simp] theorem nib1_formatXYN (o x y n : Nibble) : nib1 (o ++ x ++ y ++ n) = y := by
  apply BitVec.eq_of_toNat_eq
  have := x.isLt
  have := y.isLt
  have := n.isLt
  rw [nib1, BitVec.extractLsb'_toNat, toNat_formatXYN, Nat.shiftRight_eq_div_pow]
  omega

@[simp] theorem nib0_formatXYN (o x y n : Nibble) : nib0 (o ++ x ++ y ++ n) = n := by
  apply BitVec.eq_of_toNat_eq
  have := x.isLt
  have := y.isLt
  have := n.isLt
  rw [nib0, BitVec.extractLsb'_toNat, toNat_formatXYN, Nat.shiftRight_zero]
  omega

/-- The bytes of a word, put together again, are the word (R64). -/
@[simp] theorem wordOfBytes_bytesOfWord (op : Word) : wordOfBytes (bytesOfWord op).1 (bytesOfWord op).2 = op := by
  apply BitVec.eq_of_toNat_eq
  have := op.isLt
  have h : (op.extractLsb' 0 8).toNat < 256 := (op.extractLsb' 0 8).isLt
  rw [wordOfBytes, bytesOfWord, BitVec.toNat_append, ← Nat.shiftLeft_add_eq_or_of_lt (by omega), Nat.shiftLeft_eq,
    BitVec.extractLsb'_toNat, BitVec.extractLsb'_toNat, Nat.shiftRight_eq_div_pow, Nat.shiftRight_zero]
  omega

end Sys2Proof
end

