-- ==== Sys2Proof/Laws/State.lean ====
section
/-! SUPPORT. Every field after every named update, so that no proof unfolds an update of the state. -/

namespace Sys2Proof.Machine

variable (s : State)

/-! `storeByte` -/

@[simp] theorem State.storeByte_mem (a : Nat) (b : Byte) : (s.storeByte a b).mem = Memory.write s.config.font s.mem a b := rfl
@[simp] theorem State.storeByte_v (a : Nat) (b : Byte) : (s.storeByte a b).v = s.v := rfl
@[simp] theorem State.storeByte_i (a : Nat) (b : Byte) : (s.storeByte a b).i = s.i := rfl
@[simp] theorem State.storeByte_pc (a : Nat) (b : Byte) : (s.storeByte a b).pc = s.pc := rfl
@[simp] theorem State.storeByte_dt (a : Nat) (b : Byte) : (s.storeByte a b).dt = s.dt := rfl
@[simp] theorem State.storeByte_st (a : Nat) (b : Byte) : (s.storeByte a b).st = s.st := rfl
@[simp] theorem State.storeByte_stack (a : Nat) (b : Byte) : (s.storeByte a b).stack = s.stack := rfl
@[simp] theorem State.storeByte_fb (a : Nat) (b : Byte) : (s.storeByte a b).fb = s.fb := rfl
@[simp] theorem State.storeByte_key (a : Nat) (b : Byte) : (s.storeByte a b).key = s.key := rfl
@[simp] theorem State.storeByte_runState (a : Nat) (b : Byte) : (s.storeByte a b).runState = s.runState := rfl
@[simp] theorem State.storeByte_lastError (a : Nat) (b : Byte) : (s.storeByte a b).lastError = s.lastError := rfl
@[simp] theorem State.storeByte_refused (a : Nat) (b : Byte) : (s.storeByte a b).refused = s.refused := rfl
@[simp] theorem State.storeByte_draws (a : Nat) (b : Byte) : (s.storeByte a b).draws = s.draws := rfl
@[simp] theorem State.storeByte_config (a : Nat) (b : Byte) : (s.storeByte a b).config = s.config := rfl
@[simp] theorem State.storeByte_reg (a : Nat) (b : Byte) (y : Nibble) : (s.storeByte a b).reg y = s.reg y := rfl
@[simp] theorem State.storeByte_isPressed (a : Nat) (b : Byte) (k' : Nibble) : (s.storeByte a b).isPressed k' = s.isPressed k' := rfl
@[simp] theorem State.storeByte_depth (a : Nat) (b : Byte) : (s.storeByte a b).depth = s.depth := rfl

/-! `setPc` -/

@[simp] theorem State.setPc_mem (a : Word) : (s.setPc a).mem = s.mem := rfl
@[simp] theorem State.setPc_v (a : Word) : (s.setPc a).v = s.v := rfl
@[simp] theorem State.setPc_i (a : Word) : (s.setPc a).i = s.i := rfl
@[simp] theorem State.setPc_pc (a : Word) : (s.setPc a).pc = a := rfl
@[simp] theorem State.setPc_dt (a : Word) : (s.setPc a).dt = s.dt := rfl
@[simp] theorem State.setPc_st (a : Word) : (s.setPc a).st = s.st := rfl
@[simp] theorem State.setPc_stack (a : Word) : (s.setPc a).stack = s.stack := rfl
@[simp] theorem State.setPc_fb (a : Word) : (s.setPc a).fb = s.fb := rfl
@[simp] theorem State.setPc_key (a : Word) : (s.setPc a).key = s.key := rfl
@[simp] theorem State.setPc_runState (a : Word) : (s.setPc a).runState = s.runState := rfl
@[simp] theorem State.setPc_lastError (a : Word) : (s.setPc a).lastError = s.lastError := rfl
@[simp] theorem State.setPc_refused (a : Word) : (s.setPc a).refused = s.refused := rfl
@[simp] theorem State.setPc_draws (a : Word) : (s.setPc a).draws = s.draws := rfl
@[simp] theorem State.setPc_config (a : Word) : (s.setPc a).config = s.config := rfl
@[simp] theorem State.setPc_reg (a : Word) (y : Nibble) : (s.setPc a).reg y = s.reg y := rfl
@[simp] theorem State.setPc_readByte (a : Word) (a' : Nat) : (s.setPc a).readByte a' = s.readByte a' := rfl
@[simp] theorem State.setPc_isPressed (a : Word) (k' : Nibble) : (s.setPc a).isPressed k' = s.isPressed k' := rfl
@[simp] theorem State.setPc_depth (a : Word) : (s.setPc a).depth = s.depth := rfl

/-! `setI` -/

@[simp] theorem State.setI_mem (a : Word) : (s.setI a).mem = s.mem := rfl
@[simp] theorem State.setI_v (a : Word) : (s.setI a).v = s.v := rfl
@[simp] theorem State.setI_i (a : Word) : (s.setI a).i = a := rfl
@[simp] theorem State.setI_pc (a : Word) : (s.setI a).pc = s.pc := rfl
@[simp] theorem State.setI_dt (a : Word) : (s.setI a).dt = s.dt := rfl
@[simp] theorem State.setI_st (a : Word) : (s.setI a).st = s.st := rfl
@[simp] theorem State.setI_stack (a : Word) : (s.setI a).stack = s.stack := rfl
@[simp] theorem State.setI_fb (a : Word) : (s.setI a).fb = s.fb := rfl
@[simp] theorem State.setI_key (a : Word) : (s.setI a).key = s.key := rfl
@[simp] theorem State.setI_runState (a : Word) : (s.setI a).runState = s.runState := rfl
@[simp] theorem State.setI_lastError (a : Word) : (s.setI a).lastError = s.lastError := rfl
@[simp] theorem State.setI_refused (a : Word) : (s.setI a).refused = s.refused := rfl
@[simp] theorem State.setI_draws (a : Word) : (s.setI a).draws = s.draws := rfl
@[simp] theorem State.setI_config (a : Word) : (s.setI a).config = s.config := rfl
@[simp] theorem State.setI_reg (a : Word) (y : Nibble) : (s.setI a).reg y = s.reg y := rfl
@[simp] theorem State.setI_readByte (a : Word) (a' : Nat) : (s.setI a).readByte a' = s.readByte a' := rfl
@[simp] theorem State.setI_isPressed (a : Word) (k' : Nibble) : (s.setI a).isPressed k' = s.isPressed k' := rfl
@[simp] theorem State.setI_depth (a : Word) : (s.setI a).depth = s.depth := rfl

/-! `setDt` -/

@[simp] theorem State.setDt_mem (b : Byte) : (s.setDt b).mem = s.mem := rfl
@[simp] theorem State.setDt_v (b : Byte) : (s.setDt b).v = s.v := rfl
@[simp] theorem State.setDt_i (b : Byte) : (s.setDt b).i = s.i := rfl
@[simp] theorem State.setDt_pc (b : Byte) : (s.setDt b).pc = s.pc := rfl
@[simp] theorem State.setDt_dt (b : Byte) : (s.setDt b).dt = b := rfl
@[simp] theorem State.setDt_st (b : Byte) : (s.setDt b).st = s.st := rfl
@[simp] theorem State.setDt_stack (b : Byte) : (s.setDt b).stack = s.stack := rfl
@[simp] theorem State.setDt_fb (b : Byte) : (s.setDt b).fb = s.fb := rfl
@[simp] theorem State.setDt_key (b : Byte) : (s.setDt b).key = s.key := rfl
@[simp] theorem State.setDt_runState (b : Byte) : (s.setDt b).runState = s.runState := rfl
@[simp] theorem State.setDt_lastError (b : Byte) : (s.setDt b).lastError = s.lastError := rfl
@[simp] theorem State.setDt_refused (b : Byte) : (s.setDt b).refused = s.refused := rfl
@[simp] theorem State.setDt_draws (b : Byte) : (s.setDt b).draws = s.draws := rfl
@[simp] theorem State.setDt_config (b : Byte) : (s.setDt b).config = s.config := rfl
@[simp] theorem State.setDt_reg (b : Byte) (y : Nibble) : (s.setDt b).reg y = s.reg y := rfl
@[simp] theorem State.setDt_readByte (b : Byte) (a' : Nat) : (s.setDt b).readByte a' = s.readByte a' := rfl
@[simp] theorem State.setDt_isPressed (b : Byte) (k' : Nibble) : (s.setDt b).isPressed k' = s.isPressed k' := rfl
@[simp] theorem State.setDt_depth (b : Byte) : (s.setDt b).depth = s.depth := rfl

/-! `setSt` -/

@[simp] theorem State.setSt_mem (b : Byte) : (s.setSt b).mem = s.mem := rfl
@[simp] theorem State.setSt_v (b : Byte) : (s.setSt b).v = s.v := rfl
@[simp] theorem State.setSt_i (b : Byte) : (s.setSt b).i = s.i := rfl
@[simp] theorem State.setSt_pc (b : Byte) : (s.setSt b).pc = s.pc := rfl
@[simp] theorem State.setSt_dt (b : Byte) : (s.setSt b).dt = s.dt := rfl
@[simp] theorem State.setSt_st (b : Byte) : (s.setSt b).st = b := rfl
@[simp] theorem State.setSt_stack (b : Byte) : (s.setSt b).stack = s.stack := rfl
@[simp] theorem State.setSt_fb (b : Byte) : (s.setSt b).fb = s.fb := rfl
@[simp] theorem State.setSt_key (b : Byte) : (s.setSt b).key = s.key := rfl
@[simp] theorem State.setSt_runState (b : Byte) : (s.setSt b).runState = s.runState := rfl
@[simp] theorem State.setSt_lastError (b : Byte) : (s.setSt b).lastError = s.lastError := rfl
@[simp] theorem State.setSt_refused (b : Byte) : (s.setSt b).refused = s.refused := rfl
@[simp] theorem State.setSt_draws (b : Byte) : (s.setSt b).draws = s.draws := rfl
@[simp] theorem State.setSt_config (b : Byte) : (s.setSt b).config = s.config := rfl
@[simp] theorem State.setSt_reg (b : Byte) (y : Nibble) : (s.setSt b).reg y = s.reg y := rfl
@[simp] theorem State.setSt_readByte (b : Byte) (a' : Nat) : (s.setSt b).readByte a' = s.readByte a' := rfl
@[simp] theorem State.setSt_isPressed (b : Byte) (k' : Nibble) : (s.setSt b).isPressed k' = s.isPressed k' := rfl
@[simp] theorem State.setSt_depth (b : Byte) : (s.setSt b).depth = s.depth := rfl

/-! `setFb` -/

@[simp] theorem State.setFb_mem (f : Framebuffer) : (s.setFb f).mem = s.mem := rfl
@[simp] theorem State.setFb_v (f : Framebuffer) : (s.setFb f).v = s.v := rfl
@[simp] theorem State.setFb_i (f : Framebuffer) : (s.setFb f).i = s.i := rfl
@[simp] theorem State.setFb_pc (f : Framebuffer) : (s.setFb f).pc = s.pc := rfl
@[simp] theorem State.setFb_dt (f : Framebuffer) : (s.setFb f).dt = s.dt := rfl
@[simp] theorem State.setFb_st (f : Framebuffer) : (s.setFb f).st = s.st := rfl
@[simp] theorem State.setFb_stack (f : Framebuffer) : (s.setFb f).stack = s.stack := rfl
@[simp] theorem State.setFb_fb (f : Framebuffer) : (s.setFb f).fb = f := rfl
@[simp] theorem State.setFb_key (f : Framebuffer) : (s.setFb f).key = s.key := rfl
@[simp] theorem State.setFb_runState (f : Framebuffer) : (s.setFb f).runState = s.runState := rfl
@[simp] theorem State.setFb_lastError (f : Framebuffer) : (s.setFb f).lastError = s.lastError := rfl
@[simp] theorem State.setFb_refused (f : Framebuffer) : (s.setFb f).refused = s.refused := rfl
@[simp] theorem State.setFb_draws (f : Framebuffer) : (s.setFb f).draws = s.draws := rfl
@[simp] theorem State.setFb_config (f : Framebuffer) : (s.setFb f).config = s.config := rfl
@[simp] theorem State.setFb_reg (f : Framebuffer) (y : Nibble) : (s.setFb f).reg y = s.reg y := rfl
@[simp] theorem State.setFb_readByte (f : Framebuffer) (a' : Nat) : (s.setFb f).readByte a' = s.readByte a' := rfl
@[simp] theorem State.setFb_isPressed (f : Framebuffer) (k' : Nibble) : (s.setFb f).isPressed k' = s.isPressed k' := rfl
@[simp] theorem State.setFb_depth (f : Framebuffer) : (s.setFb f).depth = s.depth := rfl

/-! `setStack` -/

@[simp] theorem State.setStack_mem (l : List Word) : (s.setStack l).mem = s.mem := rfl
@[simp] theorem State.setStack_v (l : List Word) : (s.setStack l).v = s.v := rfl
@[simp] theorem State.setStack_i (l : List Word) : (s.setStack l).i = s.i := rfl
@[simp] theorem State.setStack_pc (l : List Word) : (s.setStack l).pc = s.pc := rfl
@[simp] theorem State.setStack_dt (l : List Word) : (s.setStack l).dt = s.dt := rfl
@[simp] theorem State.setStack_st (l : List Word) : (s.setStack l).st = s.st := rfl
@[simp] theorem State.setStack_stack (l : List Word) : (s.setStack l).stack = l := rfl
@[simp] theorem State.setStack_fb (l : List Word) : (s.setStack l).fb = s.fb := rfl
@[simp] theorem State.setStack_key (l : List Word) : (s.setStack l).key = s.key := rfl
@[simp] theorem State.setStack_runState (l : List Word) : (s.setStack l).runState = s.runState := rfl
@[simp] theorem State.setStack_lastError (l : List Word) : (s.setStack l).lastError = s.lastError := rfl
@[simp] theorem State.setStack_refused (l : List Word) : (s.setStack l).refused = s.refused := rfl
@[simp] theorem State.setStack_draws (l : List Word) : (s.setStack l).draws = s.draws := rfl
@[simp] theorem State.setStack_config (l : List Word) : (s.setStack l).config = s.config := rfl
@[simp] theorem State.setStack_reg (l : List Word) (y : Nibble) : (s.setStack l).reg y = s.reg y := rfl
@[simp] theorem State.setStack_readByte (l : List Word) (a' : Nat) : (s.setStack l).readByte a' = s.readByte a' := rfl
@[simp] theorem State.setStack_isPressed (l : List Word) (k' : Nibble) : (s.setStack l).isPressed k' = s.isPressed k' := rfl

/-! `setRunState` -/

@[simp] theorem State.setRunState_mem (r : RunState) : (s.setRunState r).mem = s.mem := rfl
@[simp] theorem State.setRunState_v (r : RunState) : (s.setRunState r).v = s.v := rfl
@[simp] theorem State.setRunState_i (r : RunState) : (s.setRunState r).i = s.i := rfl
@[simp] theorem State.setRunState_pc (r : RunState) : (s.setRunState r).pc = s.pc := rfl
@[simp] theorem State.setRunState_dt (r : RunState) : (s.setRunState r).dt = s.dt := rfl
@[simp] theorem State.setRunState_st (r : RunState) : (s.setRunState r).st = s.st := rfl
@[simp] theorem State.setRunState_stack (r : RunState) : (s.setRunState r).stack = s.stack := rfl
@[simp] theorem State.setRunState_fb (r : RunState) : (s.setRunState r).fb = s.fb := rfl
@[simp] theorem State.setRunState_key (r : RunState) : (s.setRunState r).key = s.key := rfl
@[simp] theorem State.setRunState_runState (r : RunState) : (s.setRunState r).runState = r := rfl
@[simp] theorem State.setRunState_lastError (r : RunState) : (s.setRunState r).lastError = s.lastError := rfl
@[simp] theorem State.setRunState_refused (r : RunState) : (s.setRunState r).refused = s.refused := rfl
@[simp] theorem State.setRunState_draws (r : RunState) : (s.setRunState r).draws = s.draws := rfl
@[simp] theorem State.setRunState_config (r : RunState) : (s.setRunState r).config = s.config := rfl
@[simp] theorem State.setRunState_reg (r : RunState) (y : Nibble) : (s.setRunState r).reg y = s.reg y := rfl
@[simp] theorem State.setRunState_readByte (r : RunState) (a' : Nat) : (s.setRunState r).readByte a' = s.readByte a' := rfl
@[simp] theorem State.setRunState_isPressed (r : RunState) (k' : Nibble) : (s.setRunState r).isPressed k' = s.isPressed k' := rfl
@[simp] theorem State.setRunState_depth (r : RunState) : (s.setRunState r).depth = s.depth := rfl

/-! `recordError` -/

@[simp] theorem State.recordError_mem (e : CoreError) : (s.recordError e).mem = s.mem := rfl
@[simp] theorem State.recordError_v (e : CoreError) : (s.recordError e).v = s.v := rfl
@[simp] theorem State.recordError_i (e : CoreError) : (s.recordError e).i = s.i := rfl
@[simp] theorem State.recordError_pc (e : CoreError) : (s.recordError e).pc = s.pc := rfl
@[simp] theorem State.recordError_dt (e : CoreError) : (s.recordError e).dt = s.dt := rfl
@[simp] theorem State.recordError_st (e : CoreError) : (s.recordError e).st = s.st := rfl
@[simp] theorem State.recordError_stack (e : CoreError) : (s.recordError e).stack = s.stack := rfl
@[simp] theorem State.recordError_fb (e : CoreError) : (s.recordError e).fb = s.fb := rfl
@[simp] theorem State.recordError_key (e : CoreError) : (s.recordError e).key = s.key := rfl
@[simp] theorem State.recordError_runState (e : CoreError) : (s.recordError e).runState = s.runState := rfl
@[simp] theorem State.recordError_lastError (e : CoreError) : (s.recordError e).lastError = some e := rfl
@[simp] theorem State.recordError_refused (e : CoreError) : (s.recordError e).refused = s.refused := rfl
@[simp] theorem State.recordError_draws (e : CoreError) : (s.recordError e).draws = s.draws := rfl
@[simp] theorem State.recordError_config (e : CoreError) : (s.recordError e).config = s.config := rfl
@[simp] theorem State.recordError_reg (e : CoreError) (y : Nibble) : (s.recordError e).reg y = s.reg y := rfl
@[simp] theorem State.recordError_readByte (e : CoreError) (a' : Nat) : (s.recordError e).readByte a' = s.readByte a' := rfl
@[simp] theorem State.recordError_isPressed (e : CoreError) (k' : Nibble) : (s.recordError e).isPressed k' = s.isPressed k' := rfl
@[simp] theorem State.recordError_depth (e : CoreError) : (s.recordError e).depth = s.depth := rfl

/-! `setRegs` -/

@[simp] theorem State.setRegs_mem (r : Vector Byte 16) : (s.setRegs r).mem = s.mem := rfl
@[simp] theorem State.setRegs_v (r : Vector Byte 16) : (s.setRegs r).v = r := rfl
@[simp] theorem State.setRegs_i (r : Vector Byte 16) : (s.setRegs r).i = s.i := rfl
@[simp] theorem State.setRegs_pc (r : Vector Byte 16) : (s.setRegs r).pc = s.pc := rfl
@[simp] theorem State.setRegs_dt (r : Vector Byte 16) : (s.setRegs r).dt = s.dt := rfl
@[simp] theorem State.setRegs_st (r : Vector Byte 16) : (s.setRegs r).st = s.st := rfl
@[simp] theorem State.setRegs_stack (r : Vector Byte 16) : (s.setRegs r).stack = s.stack := rfl
@[simp] theorem State.setRegs_fb (r : Vector Byte 16) : (s.setRegs r).fb = s.fb := rfl
@[simp] theorem State.setRegs_key (r : Vector Byte 16) : (s.setRegs r).key = s.key := rfl
@[simp] theorem State.setRegs_runState (r : Vector Byte 16) : (s.setRegs r).runState = s.runState := rfl
@[simp] theorem State.setRegs_lastError (r : Vector Byte 16) : (s.setRegs r).lastError = s.lastError := rfl
@[simp] theorem State.setRegs_refused (r : Vector Byte 16) : (s.setRegs r).refused = s.refused := rfl
@[simp] theorem State.setRegs_draws (r : Vector Byte 16) : (s.setRegs r).draws = s.draws := rfl
@[simp] theorem State.setRegs_config (r : Vector Byte 16) : (s.setRegs r).config = s.config := rfl
@[simp] theorem State.setRegs_readByte (r : Vector Byte 16) (a' : Nat) : (s.setRegs r).readByte a' = s.readByte a' := rfl
@[simp] theorem State.setRegs_isPressed (r : Vector Byte 16) (k' : Nibble) : (s.setRegs r).isPressed k' = s.isPressed k' := rfl
@[simp] theorem State.setRegs_depth (r : Vector Byte 16) : (s.setRegs r).depth = s.depth := rfl

/-! `countDraw` -/

@[simp] theorem State.countDraw_mem : (s.countDraw).mem = s.mem := rfl
@[simp] theorem State.countDraw_v : (s.countDraw).v = s.v := rfl
@[simp] theorem State.countDraw_i : (s.countDraw).i = s.i := rfl
@[simp] theorem State.countDraw_pc : (s.countDraw).pc = s.pc := rfl
@[simp] theorem State.countDraw_dt : (s.countDraw).dt = s.dt := rfl
@[simp] theorem State.countDraw_st : (s.countDraw).st = s.st := rfl
@[simp] theorem State.countDraw_stack : (s.countDraw).stack = s.stack := rfl
@[simp] theorem State.countDraw_fb : (s.countDraw).fb = s.fb := rfl
@[simp] theorem State.countDraw_key : (s.countDraw).key = s.key := rfl
@[simp] theorem State.countDraw_runState : (s.countDraw).runState = s.runState := rfl
@[simp] theorem State.countDraw_lastError : (s.countDraw).lastError = s.lastError := rfl
@[simp] theorem State.countDraw_refused : (s.countDraw).refused = s.refused := rfl
@[simp] theorem State.countDraw_draws : (s.countDraw).draws = s.draws + 1 := rfl
@[simp] theorem State.countDraw_config : (s.countDraw).config = s.config := rfl
@[simp] theorem State.countDraw_reg (y : Nibble) : (s.countDraw).reg y = s.reg y := rfl
@[simp] theorem State.countDraw_readByte (a' : Nat) : (s.countDraw).readByte a' = s.readByte a' := rfl
@[simp] theorem State.countDraw_isPressed (k' : Nibble) : (s.countDraw).isPressed k' = s.isPressed k' := rfl
@[simp] theorem State.countDraw_depth : (s.countDraw).depth = s.depth := rfl

/-! `setReg` -/

@[simp] theorem State.setReg_mem (x : Nibble) (b : Byte) : (s.setReg x b).mem = s.mem := rfl
@[simp] theorem State.setReg_v (x : Nibble) (b : Byte) : (s.setReg x b).v = s.v.set x.toNat b x.isLt := rfl
@[simp] theorem State.setReg_i (x : Nibble) (b : Byte) : (s.setReg x b).i = s.i := rfl
@[simp] theorem State.setReg_pc (x : Nibble) (b : Byte) : (s.setReg x b).pc = s.pc := rfl
@[simp] theorem State.setReg_dt (x : Nibble) (b : Byte) : (s.setReg x b).dt = s.dt := rfl
@[simp] theorem State.setReg_st (x : Nibble) (b : Byte) : (s.setReg x b).st = s.st := rfl
@[simp] theorem State.setReg_stack (x : Nibble) (b : Byte) : (s.setReg x b).stack = s.stack := rfl
@[simp] theorem State.setReg_fb (x : Nibble) (b : Byte) : (s.setReg x b).fb = s.fb := rfl
@[simp] theorem State.setReg_key (x : Nibble) (b : Byte) : (s.setReg x b).key = s.key := rfl
@[simp] theorem State.setReg_runState (x : Nibble) (b : Byte) : (s.setReg x b).runState = s.runState := rfl
@[simp] theorem State.setReg_lastError (x : Nibble) (b : Byte) : (s.setReg x b).lastError = s.lastError := rfl
@[simp] theorem State.setReg_refused (x : Nibble) (b : Byte) : (s.setReg x b).refused = s.refused := rfl
@[simp] theorem State.setReg_draws (x : Nibble) (b : Byte) : (s.setReg x b).draws = s.draws := rfl
@[simp] theorem State.setReg_config (x : Nibble) (b : Byte) : (s.setReg x b).config = s.config := rfl
@[simp] theorem State.setReg_readByte (x : Nibble) (b : Byte) (a' : Nat) : (s.setReg x b).readByte a' = s.readByte a' := rfl
@[simp] theorem State.setReg_isPressed (x : Nibble) (b : Byte) (k' : Nibble) : (s.setReg x b).isPressed k' = s.isPressed k' := rfl
@[simp] theorem State.setReg_depth (x : Nibble) (b : Byte) : (s.setReg x b).depth = s.depth := rfl

/-! `setFlag` -/

@[simp] theorem State.setFlag_mem (f : Bool) : (s.setFlag f).mem = s.mem := rfl
@[simp] theorem State.setFlag_v (f : Bool) : (s.setFlag f).v = s.v.set vf.toNat (flagByte f) vf.isLt := rfl
@[simp] theorem State.setFlag_i (f : Bool) : (s.setFlag f).i = s.i := rfl
@[simp] theorem State.setFlag_pc (f : Bool) : (s.setFlag f).pc = s.pc := rfl
@[simp] theorem State.setFlag_dt (f : Bool) : (s.setFlag f).dt = s.dt := rfl
@[simp] theorem State.setFlag_st (f : Bool) : (s.setFlag f).st = s.st := rfl
@[simp] theorem State.setFlag_stack (f : Bool) : (s.setFlag f).stack = s.stack := rfl
@[simp] theorem State.setFlag_fb (f : Bool) : (s.setFlag f).fb = s.fb := rfl
@[simp] theorem State.setFlag_key (f : Bool) : (s.setFlag f).key = s.key := rfl
@[simp] theorem State.setFlag_runState (f : Bool) : (s.setFlag f).runState = s.runState := rfl
@[simp] theorem State.setFlag_lastError (f : Bool) : (s.setFlag f).lastError = s.lastError := rfl
@[simp] theorem State.setFlag_refused (f : Bool) : (s.setFlag f).refused = s.refused := rfl
@[simp] theorem State.setFlag_draws (f : Bool) : (s.setFlag f).draws = s.draws := rfl
@[simp] theorem State.setFlag_config (f : Bool) : (s.setFlag f).config = s.config := rfl
@[simp] theorem State.setFlag_readByte (f : Bool) (a' : Nat) : (s.setFlag f).readByte a' = s.readByte a' := rfl
@[simp] theorem State.setFlag_isPressed (f : Bool) (k' : Nibble) : (s.setFlag f).isPressed k' = s.isPressed k' := rfl
@[simp] theorem State.setFlag_depth (f : Bool) : (s.setFlag f).depth = s.depth := rfl

/-! `setResultAndFlag` -/

@[simp] theorem State.setResultAndFlag_mem (x : Nibble) (r : Byte) (f : Bool) : (s.setResultAndFlag x r f).mem = s.mem := rfl
@[simp] theorem State.setResultAndFlag_i (x : Nibble) (r : Byte) (f : Bool) : (s.setResultAndFlag x r f).i = s.i := rfl
@[simp] theorem State.setResultAndFlag_pc (x : Nibble) (r : Byte) (f : Bool) : (s.setResultAndFlag x r f).pc = s.pc := rfl
@[simp] theorem State.setResultAndFlag_dt (x : Nibble) (r : Byte) (f : Bool) : (s.setResultAndFlag x r f).dt = s.dt := rfl
@[simp] theorem State.setResultAndFlag_st (x : Nibble) (r : Byte) (f : Bool) : (s.setResultAndFlag x r f).st = s.st := rfl
@[simp] theorem State.setResultAndFlag_stack (x : Nibble) (r : Byte) (f : Bool) : (s.setResultAndFlag x r f).stack = s.stack := rfl
@[simp] theorem State.setResultAndFlag_fb (x : Nibble) (r : Byte) (f : Bool) : (s.setResultAndFlag x r f).fb = s.fb := rfl
@[simp] theorem State.setResultAndFlag_key (x : Nibble) (r : Byte) (f : Bool) : (s.setResultAndFlag x r f).key = s.key := rfl
@[simp] theorem State.setResultAndFlag_runState (x : Nibble) (r : Byte) (f : Bool) : (s.setResultAndFlag x r f).runState = s.runState := rfl
@[simp] theorem State.setResultAndFlag_lastError (x : Nibble) (r : Byte) (f : Bool) : (s.setResultAndFlag x r f).lastError = s.lastError := rfl
@[simp] theorem State.setResultAndFlag_refused (x : Nibble) (r : Byte) (f : Bool) : (s.setResultAndFlag x r f).refused = s.refused := rfl
@[simp] theorem State.setResultAndFlag_draws (x : Nibble) (r : Byte) (f : Bool) : (s.setResultAndFlag x r f).draws = s.draws := rfl
@[simp] theorem State.setResultAndFlag_config (x : Nibble) (r : Byte) (f : Bool) : (s.setResultAndFlag x r f).config = s.config := rfl
@[simp] theorem State.setResultAndFlag_readByte (x : Nibble) (r : Byte) (f : Bool) (a' : Nat) : (s.setResultAndFlag x r f).readByte a' = s.readByte a' := rfl
@[simp] theorem State.setResultAndFlag_isPressed (x : Nibble) (r : Byte) (f : Bool) (k' : Nibble) : (s.setResultAndFlag x r f).isPressed k' = s.isPressed k' := rfl
@[simp] theorem State.setResultAndFlag_depth (x : Nibble) (r : Byte) (f : Bool) : (s.setResultAndFlag x r f).depth = s.depth := rfl

/-! `setKey` -/

@[simp] theorem State.setKey_mem (k : Nibble) (p : Bool) : (s.setKey k p).mem = s.mem := rfl
@[simp] theorem State.setKey_v (k : Nibble) (p : Bool) : (s.setKey k p).v = s.v := rfl
@[simp] theorem State.setKey_i (k : Nibble) (p : Bool) : (s.setKey k p).i = s.i := rfl
@[simp] theorem State.setKey_pc (k : Nibble) (p : Bool) : (s.setKey k p).pc = s.pc := rfl
@[simp] theorem State.setKey_dt (k : Nibble) (p : Bool) : (s.setKey k p).dt = s.dt := rfl
@[simp] theorem State.setKey_st (k : Nibble) (p : Bool) : (s.setKey k p).st = s.st := rfl
@[simp] theorem State.setKey_stack (k : Nibble) (p : Bool) : (s.setKey k p).stack = s.stack := rfl
@[simp] theorem State.setKey_fb (k : Nibble) (p : Bool) : (s.setKey k p).fb = s.fb := rfl
@[simp] theorem State.setKey_key (k : Nibble) (p : Bool) : (s.setKey k p).key = s.key.set k.toNat p k.isLt := rfl
@[simp] theorem State.setKey_runState (k : Nibble) (p : Bool) : (s.setKey k p).runState = s.runState := rfl
@[simp] theorem State.setKey_lastError (k : Nibble) (p : Bool) : (s.setKey k p).lastError = s.lastError := rfl
@[simp] theorem State.setKey_refused (k : Nibble) (p : Bool) : (s.setKey k p).refused = s.refused := rfl
@[simp] theorem State.setKey_draws (k : Nibble) (p : Bool) : (s.setKey k p).draws = s.draws := rfl
@[simp] theorem State.setKey_config (k : Nibble) (p : Bool) : (s.setKey k p).config = s.config := rfl
@[simp] theorem State.setKey_reg (k : Nibble) (p : Bool) (y : Nibble) : (s.setKey k p).reg y = s.reg y := rfl
@[simp] theorem State.setKey_readByte (k : Nibble) (p : Bool) (a' : Nat) : (s.setKey k p).readByte a' = s.readByte a' := rfl
@[simp] theorem State.setKey_depth (k : Nibble) (p : Bool) : (s.setKey k p).depth = s.depth := rfl

/-! `advance` -/

@[simp] theorem State.advance_mem : (s.advance).mem = s.mem := rfl
@[simp] theorem State.advance_v : (s.advance).v = s.v := rfl
@[simp] theorem State.advance_i : (s.advance).i = s.i := rfl
@[simp] theorem State.advance_pc : (s.advance).pc = s.pc + 2#16 := rfl
@[simp] theorem State.advance_dt : (s.advance).dt = s.dt := rfl
@[simp] theorem State.advance_st : (s.advance).st = s.st := rfl
@[simp] theorem State.advance_stack : (s.advance).stack = s.stack := rfl
@[simp] theorem State.advance_fb : (s.advance).fb = s.fb := rfl
@[simp] theorem State.advance_key : (s.advance).key = s.key := rfl
@[simp] theorem State.advance_runState : (s.advance).runState = s.runState := rfl
@[simp] theorem State.advance_lastError : (s.advance).lastError = s.lastError := rfl
@[simp] theorem State.advance_refused : (s.advance).refused = s.refused := rfl
@[simp] theorem State.advance_draws : (s.advance).draws = s.draws := rfl
@[simp] theorem State.advance_config : (s.advance).config = s.config := rfl
@[simp] theorem State.advance_reg (y : Nibble) : (s.advance).reg y = s.reg y := rfl
@[simp] theorem State.advance_readByte (a' : Nat) : (s.advance).readByte a' = s.readByte a' := rfl
@[simp] theorem State.advance_isPressed (k' : Nibble) : (s.advance).isPressed k' = s.isPressed k' := rfl
@[simp] theorem State.advance_depth : (s.advance).depth = s.depth := rfl

/-! `skipIf` -/

@[simp] theorem State.skipIf_mem (c : Bool) : (s.skipIf c).mem = s.mem := rfl
@[simp] theorem State.skipIf_v (c : Bool) : (s.skipIf c).v = s.v := rfl
@[simp] theorem State.skipIf_i (c : Bool) : (s.skipIf c).i = s.i := rfl
@[simp] theorem State.skipIf_pc (c : Bool) : (s.skipIf c).pc = if c then s.pc + 4#16 else s.pc + 2#16 := rfl
@[simp] theorem State.skipIf_dt (c : Bool) : (s.skipIf c).dt = s.dt := rfl
@[simp] theorem State.skipIf_st (c : Bool) : (s.skipIf c).st = s.st := rfl
@[simp] theorem State.skipIf_stack (c : Bool) : (s.skipIf c).stack = s.stack := rfl
@[simp] theorem State.skipIf_fb (c : Bool) : (s.skipIf c).fb = s.fb := rfl
@[simp] theorem State.skipIf_key (c : Bool) : (s.skipIf c).key = s.key := rfl
@[simp] theorem State.skipIf_runState (c : Bool) : (s.skipIf c).runState = s.runState := rfl
@[simp] theorem State.skipIf_lastError (c : Bool) : (s.skipIf c).lastError = s.lastError := rfl
@[simp] theorem State.skipIf_refused (c : Bool) : (s.skipIf c).refused = s.refused := rfl
@[simp] theorem State.skipIf_draws (c : Bool) : (s.skipIf c).draws = s.draws := rfl
@[simp] theorem State.skipIf_config (c : Bool) : (s.skipIf c).config = s.config := rfl
@[simp] theorem State.skipIf_reg (c : Bool) (y : Nibble) : (s.skipIf c).reg y = s.reg y := rfl
@[simp] theorem State.skipIf_readByte (c : Bool) (a' : Nat) : (s.skipIf c).readByte a' = s.readByte a' := rfl
@[simp] theorem State.skipIf_isPressed (c : Bool) (k' : Nibble) : (s.skipIf c).isPressed k' = s.isPressed k' := rfl
@[simp] theorem State.skipIf_depth (c : Bool) : (s.skipIf c).depth = s.depth := rfl

/-! `raise` -/

@[simp] theorem State.raise_mem (e : CoreError) : (s.raise e).mem = s.mem := rfl
@[simp] theorem State.raise_v (e : CoreError) : (s.raise e).v = s.v := rfl
@[simp] theorem State.raise_i (e : CoreError) : (s.raise e).i = s.i := rfl
@[simp] theorem State.raise_pc (e : CoreError) : (s.raise e).pc = s.pc := rfl
@[simp] theorem State.raise_dt (e : CoreError) : (s.raise e).dt = s.dt := rfl
@[simp] theorem State.raise_st (e : CoreError) : (s.raise e).st = s.st := rfl
@[simp] theorem State.raise_stack (e : CoreError) : (s.raise e).stack = s.stack := rfl
@[simp] theorem State.raise_fb (e : CoreError) : (s.raise e).fb = s.fb := rfl
@[simp] theorem State.raise_key (e : CoreError) : (s.raise e).key = s.key := rfl
@[simp] theorem State.raise_runState (e : CoreError) : (s.raise e).runState = .halted e := rfl
@[simp] theorem State.raise_lastError (e : CoreError) : (s.raise e).lastError = some e := rfl
@[simp] theorem State.raise_refused (e : CoreError) : (s.raise e).refused = s.refused := rfl
@[simp] theorem State.raise_draws (e : CoreError) : (s.raise e).draws = s.draws := rfl
@[simp] theorem State.raise_config (e : CoreError) : (s.raise e).config = s.config := rfl
@[simp] theorem State.raise_reg (e : CoreError) (y : Nibble) : (s.raise e).reg y = s.reg y := rfl
@[simp] theorem State.raise_readByte (e : CoreError) (a' : Nat) : (s.raise e).readByte a' = s.readByte a' := rfl
@[simp] theorem State.raise_isPressed (e : CoreError) (k' : Nibble) : (s.raise e).isPressed k' = s.isPressed k' := rfl
@[simp] theorem State.raise_depth (e : CoreError) : (s.raise e).depth = s.depth := rfl

/-! `refuse` -/

@[simp] theorem State.refuse_mem (r : RefuseReason) : (s.refuse r).mem = s.mem := rfl
@[simp] theorem State.refuse_v (r : RefuseReason) : (s.refuse r).v = s.v := rfl
@[simp] theorem State.refuse_i (r : RefuseReason) : (s.refuse r).i = s.i := rfl
@[simp] theorem State.refuse_pc (r : RefuseReason) : (s.refuse r).pc = s.pc := rfl
@[simp] theorem State.refuse_dt (r : RefuseReason) : (s.refuse r).dt = s.dt := rfl
@[simp] theorem State.refuse_st (r : RefuseReason) : (s.refuse r).st = s.st := rfl
@[simp] theorem State.refuse_stack (r : RefuseReason) : (s.refuse r).stack = s.stack := rfl
@[simp] theorem State.refuse_fb (r : RefuseReason) : (s.refuse r).fb = s.fb := rfl
@[simp] theorem State.refuse_key (r : RefuseReason) : (s.refuse r).key = s.key := rfl
@[simp] theorem State.refuse_runState (r : RefuseReason) : (s.refuse r).runState = s.runState := rfl
@[simp] theorem State.refuse_lastError (r : RefuseReason) : (s.refuse r).lastError = s.lastError := rfl
@[simp] theorem State.refuse_refused (r : RefuseReason) : (s.refuse r).refused = some r := rfl
@[simp] theorem State.refuse_draws (r : RefuseReason) : (s.refuse r).draws = s.draws := rfl
@[simp] theorem State.refuse_config (r : RefuseReason) : (s.refuse r).config = s.config := rfl
@[simp] theorem State.refuse_reg (r : RefuseReason) (y : Nibble) : (s.refuse r).reg y = s.reg y := rfl
@[simp] theorem State.refuse_readByte (r : RefuseReason) (a' : Nat) : (s.refuse r).readByte a' = s.readByte a' := rfl
@[simp] theorem State.refuse_isPressed (r : RefuseReason) (k' : Nibble) : (s.refuse r).isPressed k' = s.isPressed k' := rfl
@[simp] theorem State.refuse_depth (r : RefuseReason) : (s.refuse r).depth = s.depth := rfl

/-! `setLogicResult` (R144–R146): only the registers change. -/

@[simp] theorem State.setLogicResult_mem (x : Nibble) (r : Byte) : (s.setLogicResult x r).mem = s.mem := by
  unfold State.setLogicResult; split <;> rfl
@[simp] theorem State.setLogicResult_i (x : Nibble) (r : Byte) : (s.setLogicResult x r).i = s.i := by
  unfold State.setLogicResult; split <;> rfl
@[simp] theorem State.setLogicResult_pc (x : Nibble) (r : Byte) : (s.setLogicResult x r).pc = s.pc := by
  unfold State.setLogicResult; split <;> rfl
@[simp] theorem State.setLogicResult_dt (x : Nibble) (r : Byte) : (s.setLogicResult x r).dt = s.dt := by
  unfold State.setLogicResult; split <;> rfl
@[simp] theorem State.setLogicResult_st (x : Nibble) (r : Byte) : (s.setLogicResult x r).st = s.st := by
  unfold State.setLogicResult; split <;> rfl
@[simp] theorem State.setLogicResult_stack (x : Nibble) (r : Byte) : (s.setLogicResult x r).stack = s.stack := by
  unfold State.setLogicResult; split <;> rfl
@[simp] theorem State.setLogicResult_fb (x : Nibble) (r : Byte) : (s.setLogicResult x r).fb = s.fb := by
  unfold State.setLogicResult; split <;> rfl
@[simp] theorem State.setLogicResult_key (x : Nibble) (r : Byte) : (s.setLogicResult x r).key = s.key := by
  unfold State.setLogicResult; split <;> rfl
@[simp] theorem State.setLogicResult_runState (x : Nibble) (r : Byte) : (s.setLogicResult x r).runState = s.runState := by
  unfold State.setLogicResult; split <;> rfl
@[simp] theorem State.setLogicResult_lastError (x : Nibble) (r : Byte) : (s.setLogicResult x r).lastError = s.lastError := by
  unfold State.setLogicResult; split <;> rfl
@[simp] theorem State.setLogicResult_refused (x : Nibble) (r : Byte) : (s.setLogicResult x r).refused = s.refused := by
  unfold State.setLogicResult; split <;> rfl
@[simp] theorem State.setLogicResult_draws (x : Nibble) (r : Byte) : (s.setLogicResult x r).draws = s.draws := by
  unfold State.setLogicResult; split <;> rfl
@[simp] theorem State.setLogicResult_config (x : Nibble) (r : Byte) : (s.setLogicResult x r).config = s.config := by
  unfold State.setLogicResult; split <;> rfl
@[simp] theorem State.setLogicResult_readByte (x : Nibble) (r : Byte) (a' : Nat) :
    (s.setLogicResult x r).readByte a' = s.readByte a' := by
  unfold State.setLogicResult; split <;> rfl

end Sys2Proof.Machine
end

