-- ==== Sys2Proof/Laws/Display.lean ====
section
/-! SUPPORT. Pixels: what one flip, one sprite bit and a clear do (R190–R193). -/

namespace Sys2Proof.Machine

@[simp] theorem Framebuffer.pixel_clear (row : Fin 32) (col : Fin 64) : Framebuffer.clear.pixel row col = false := by
  simp [Framebuffer.clear, Framebuffer.pixel]

/-- A flip turns one pixel over and leaves every other alone. -/
theorem Framebuffer.pixel_flip (f : Framebuffer) (r row : Fin 32) (c col : Fin 64) :
    (f.flip r c).pixel row col = (f.pixel row col ^^ (decide (r = row) && decide (c = col))) := by
  unfold Framebuffer.flip Framebuffer.pixel
  by_cases hr : r = row
  · subst hr
    simp [Fin.ext_iff, eq_comm]
  · have : r.val ≠ row.val := fun h => hr (Fin.ext h)
    simp [hr, this]

/-- Two framebuffers with the same pixels are the same. -/
theorem Framebuffer.ext_pixel {f g : Framebuffer} (h : ∀ row col, f.pixel row col = g.pixel row col) : f = g := by
  apply Vector.ext
  intro r hr
  apply BitVec.eq_of_getLsbD_eq
  intro c hc
  exact h ⟨r, hr⟩ ⟨c, hc⟩

/-- One sprite bit: the pixel under it flips, and it collides where that pixel was on (R192). -/
theorem Drawing.bit_spec (d : Drawing) (r row : Fin 32) (c col : Fin 64) :
    (d.bit r c).fb.pixel row col = (d.fb.pixel row col ^^ (decide (r = row) && decide (c = col))) ∧
    (d.bit r c).collided = (d.collided || d.fb.pixel r c) :=
  ⟨Framebuffer.pixel_flip d.fb r row c col, rfl⟩

/-! ### Sprites -/

/-- One sprite byte over a list of column offsets that fall on different columns. -/
theorem Drawing.foldBits_spec (g : Nat → Fin 64) (r : Fin 32) (b : Byte) (cs : List Nat)
    (hcs : cs.Pairwise fun c c' => g c ≠ g c') (d : Drawing) :
    let d' := cs.foldl (fun d c => if b.getLsbD (7 - c) then d.bit r (g c) else d) d
    (∀ row col, d'.fb.pixel row col = true ↔
      Xor (d.fb.pixel row col = true) (row = r ∧ ∃ c ∈ cs, b.getLsbD (7 - c) = true ∧ col = g c)) ∧
    (d'.collided = true ↔ d.collided = true ∨
      ∃ c ∈ cs, b.getLsbD (7 - c) = true ∧ d.fb.pixel r (g c) = true) := by
  induction cs generalizing d with
  | nil => simp [Xor]
  | cons c cs ih =>
    obtain ⟨hc, hcs⟩ := List.pairwise_cons.1 hcs
    simp only [List.foldl_cons]
    by_cases hb : b.getLsbD (7 - c) = true
    · obtain ⟨ih1, ih2⟩ := ih hcs (d.bit r (g c))
      simp only [hb, if_true]
      refine ⟨fun row col => ?_, ?_⟩
      · rw [ih1, (Drawing.bit_spec d r row _ col).1]
        by_cases hr : row = r
        · subst hr
          by_cases hcol : col = g c
          · have h0 : ¬ ∃ c' ∈ cs, b.getLsbD (7 - c') = true ∧ col = g c' := by
              rintro ⟨c', hc', -, h⟩
              exact hc c' hc' (hcol.symm.trans h)
            rw [hcol] at h0 ⊢
            simp [h0, hb, Xor]
          · have h' : g c ≠ col := fun h => hcol h.symm
            simp [hcol, h']
        · simp [hr, Ne.symm hr]
      · rw [ih2, (Drawing.bit_spec d r r _ (g c)).2]
        have : ∀ c' ∈ cs, (d.bit r (g c)).fb.pixel r (g c') = d.fb.pixel r (g c') := by
          intro c' hc'
          rw [(Drawing.bit_spec d r r _ _).1]
          simp [hc c' hc']
        simp only [Bool.or_eq_true, List.mem_cons, exists_eq_or_imp, hb, true_and, or_assoc]
        refine or_congr_right (or_congr_right ?_)
        exact exists_congr fun c' => and_congr_right fun h => by rw [this c' h]
    · obtain ⟨ih1, ih2⟩ := ih hcs d
      simp only [hb, Bool.false_eq_true, if_false]
      refine ⟨fun row col => ?_, ?_⟩
      · rw [ih1]; simp [hb]
      · rw [ih2]; simp [hb]

theorem columns_differ (px : Nat) :
    (List.range 8).Pairwise fun c c' => Fin.ofNat 64 (px + c) ≠ Fin.ofNat 64 (px + c') := by
  rw [List.pairwise_iff_getElem]
  intro i j hi hj hij h
  simp only [List.length_range] at hi hj
  simp only [List.getElem_range] at h
  have := congrArg Fin.val h
  simp only [Fin.val_ofNat] at this
  omega

/-- One sprite byte (R192, R193): exactly the pixels under its set bits flip, and it collides iff one of them was on. -/
theorem Drawing.row_spec (px : Nat) (r : Fin 32) (b : Byte) (d : Drawing) :
    (∀ row col, (d.row px r b).fb.pixel row col = true ↔
      Xor (d.fb.pixel row col = true)
        (row = r ∧ ∃ c < 8, b.getLsbD (7 - c) = true ∧ col = Fin.ofNat 64 (px + c))) ∧
    ((d.row px r b).collided = true ↔ d.collided = true ∨
      ∃ c < 8, b.getLsbD (7 - c) = true ∧ d.fb.pixel r (Fin.ofNat 64 (px + c)) = true) := by
  have := Drawing.foldBits_spec (fun c => Fin.ofNat 64 (px + c)) r b (List.range 8) (columns_differ px) d
  simp only [List.mem_range] at this
  exact this

/-- The pixels under the set bits of a sprite drawn at column `px` and row `py` (R192). -/
def covered (px py : Nat) (bs : List Byte) (row : Fin 32) (col : Fin 64) : Prop :=
  ∃ r c : Nat, ∃ h : r < bs.length, c < 8 ∧ (bs[r]).getLsbD (7 - c) = true ∧
    row = Fin.ofNat 32 (py + r) ∧ col = Fin.ofNat 64 (px + c)

theorem covered_nil (px py : Nat) (row : Fin 32) (col : Fin 64) : ¬ covered px py [] row col := by
  rintro ⟨r, c, h, -⟩
  simp at h

theorem covered_cons (px py : Nat) (b : Byte) (bs : List Byte) (row : Fin 32) (col : Fin 64) :
    covered px py (b :: bs) row col ↔
      (row = Fin.ofNat 32 py ∧ ∃ c < 8, b.getLsbD (7 - c) = true ∧ col = Fin.ofNat 64 (px + c)) ∨
      covered px (py + 1) bs row col := by
  constructor
  · rintro ⟨r, c, h, hc, hb, hr, hcol⟩
    cases r with
    | zero => exact .inl ⟨hr, c, hc, hb, hcol⟩
    | succ r =>
      refine .inr ⟨r, c, by simpa using h, hc, by simpa using hb, ?_, hcol⟩
      rw [hr]; congr 1; omega
  · rintro (⟨hr, c, hc, hb, hcol⟩ | ⟨r, c, h, hc, hb, hr, hcol⟩)
    · exact ⟨0, c, by simp, hc, hb, hr, hcol⟩
    · refine ⟨r + 1, c, by simpa using h, hc, by simpa using hb, ?_, hcol⟩
      rw [hr]; congr 1; omega

/-- Rows below the first are not touched by it, for a sprite of at most 32 rows. -/
theorem not_covered_first_row {px py : Nat} {bs : List Byte} (h : bs.length < 32) (col : Fin 64) :
    ¬ covered px (py + 1) bs (Fin.ofNat 32 py) col := by
  rintro ⟨r, c, hr, -, -, h', -⟩
  have := congrArg Fin.val h'
  simp only [Fin.val_ofNat] at this
  omega

theorem Drawing.rows_spec (px py : Nat) (bs : List Byte) (h : bs.length ≤ 32) (d : Drawing) :
    (∀ row col, (d.rows px py bs).fb.pixel row col = true ↔
      Xor (d.fb.pixel row col = true) (covered px py bs row col)) ∧
    ((d.rows px py bs).collided = true ↔ d.collided = true ∨
      ∃ row col, covered px py bs row col ∧ d.fb.pixel row col = true) := by
  induction bs generalizing d py with
  | nil =>
    simp only [Drawing.rows, covered_nil, Xor, not_false_eq_true, and_true, false_and, or_false, exists_false,
      iff_self, implies_true, and_self]
  | cons b bs ih =>
    simp only [List.length_cons] at h
    obtain ⟨ih1, ih2⟩ := ih (py + 1) (by omega) (d.row px (Fin.ofNat 32 py) b)
    obtain ⟨r1, r2⟩ := Drawing.row_spec px (Fin.ofNat 32 py) b d
    have hdis := fun col => not_covered_first_row (px := px) (py := py) (bs := bs) (by omega) col
    simp only [Drawing.rows, covered_cons]
    refine ⟨fun row col => ?_, ?_⟩
    · rw [ih1, r1]
      by_cases hr : row = Fin.ofNat 32 py
      · subst hr
        simp only [hdis col, true_and, or_false, Xor, not_false_eq_true, and_true, false_and, or_false]
      · simp only [hr, false_and, false_or, Xor, not_false_eq_true, and_true, or_false]
    · rw [ih2, r2]
      constructor
      · rintro ((h1 | ⟨c, hc, hb, hp⟩) | ⟨row, col, hcov, hp⟩)
        · exact .inl h1
        · exact .inr ⟨_, _, .inl ⟨rfl, c, hc, hb, rfl⟩, hp⟩
        · refine .inr ⟨row, col, .inr hcov, ?_⟩
          by_cases hr : row = Fin.ofNat 32 py
          · subst hr; exact absurd hcov (hdis col)
          · simpa only [r1, hr, false_and, Xor, not_false_eq_true, and_true, or_false] using hp
      · rintro (h1 | ⟨row, col, (⟨hr, c, hc, hb, hcol⟩ | hcov), hp⟩)
        · exact .inl (.inl h1)
        · subst hr; subst hcol; exact .inl (.inr ⟨c, hc, hb, hp⟩)
        · refine .inr ⟨row, col, hcov, ?_⟩
          by_cases hr : row = Fin.ofNat 32 py
          · subst hr; exact absurd hcov (hdis col)
          · simpa only [r1, hr, false_and, Xor, not_false_eq_true, and_true, or_false] using hp

/-- Everything a draw can do (R192, R194): exactly the pixels under set sprite bits flip, and it collides iff one of them
was on before. -/
theorem Framebuffer.draw_spec (f : Framebuffer) (px py : Nat) (bs : List Byte) (h : bs.length ≤ 32) :
    (∀ row col, (f.draw px py bs).fb.pixel row col = true ↔
      Xor (f.pixel row col = true) (covered px py bs row col)) ∧
    ((f.draw px py bs).collided = true ↔ ∃ row col, covered px py bs row col ∧ f.pixel row col = true) := by
  have := Drawing.rows_spec px py bs h ⟨f, false⟩
  simpa only [Framebuffer.draw, Bool.false_eq_true, false_or] using this

end Sys2Proof.Machine
end

