-- ==== Sys2Proof/Laws/Memory.lean ====
section
/-! SUPPORT. Memory: reading after writing, the canonical form kept by every write, blocks of bytes, and the access check
(R61, R62, R173). -/

namespace Sys2Proof.Machine

/-- A write leaves every other address alone. -/
theorem Memory.read_write_of_ne (font : Font) (m : Memory) {a c : Nat} (b : Byte) (h : c ≠ a) :
    Memory.read font (Memory.write font m a b) c = Memory.read font m c := by
  induction m with
  | nil =>
    unfold Memory.write
    split
    · rfl
    · simp [Memory.read, Ne.symm h]
  | cons p m ih =>
    obtain ⟨a', b'⟩ := p
    unfold Memory.write
    split
    · split
      · rfl
      · simp [Memory.read, Ne.symm h]
    · split
      · next _ heq =>
        subst heq
        split <;> simp [Memory.read, Ne.symm h]
      · simp [Memory.read, ih]

/-- In canonical form no address below the bound is listed. -/
theorem Memory.read_of_wfFrom (font : Font) {m : Memory} {lo a : Nat} (hm : Memory.wfFrom font lo m = true) (h : a < lo) :
    Memory.read font m a = Memory.base font a := by
  induction m generalizing lo with
  | nil => rfl
  | cons p m ih =>
    obtain ⟨a', b'⟩ := p
    simp only [Memory.wfFrom, Bool.and_eq_true, decide_eq_true_eq] at hm
    have : a' ≠ a := by omega
    simp only [Memory.read, this, if_false]
    exact ih hm.2 (by omega)

/-- A read gives what was last written there. -/
theorem Memory.read_write_self (font : Font) {m : Memory} {lo a : Nat} (b : Byte) (hm : Memory.wfFrom font lo m = true) :
    Memory.read font (Memory.write font m a b) a = b := by
  induction m generalizing lo with
  | nil =>
    unfold Memory.write
    split
    · next h => simp [Memory.read, h]
    · simp [Memory.read]
  | cons p m ih =>
    obtain ⟨a', b'⟩ := p
    simp only [Memory.wfFrom, Bool.and_eq_true, decide_eq_true_eq] at hm
    unfold Memory.write
    split
    · next hlt =>
      split
      · next hb =>
        have hne : a' ≠ a := by omega
        simp only [Memory.read, hne, if_false]
        rw [Memory.read_of_wfFrom font hm.2 (by omega), hb]
      · simp [Memory.read]
    · split
      · next heq =>
        subst heq
        split
        · next hb => rw [Memory.read_of_wfFrom font hm.2 (by omega), hb]
        · simp [Memory.read]
      · next h1 h2 =>
        simp only [Memory.read, Ne.symm h2, if_false]
        exact ih hm.2

theorem Memory.wfFrom_mono (font : Font) {m : Memory} {lo lo' : Nat} (h : lo' ≤ lo) (hm : Memory.wfFrom font lo m = true) :
    Memory.wfFrom font lo' m = true := by
  cases m with
  | nil => rfl
  | cons p m =>
    simp only [Memory.wfFrom, Bool.and_eq_true, decide_eq_true_eq] at hm ⊢
    exact ⟨⟨⟨by omega, hm.1.1.2⟩, hm.1.2⟩, hm.2⟩

theorem Memory.wfFrom_write (font : Font) {m : Memory} {lo a : Nat} (b : Byte) (hlo : lo ≤ a) (ha : a < memSize)
    (hm : Memory.wfFrom font lo m = true) : Memory.wfFrom font lo (Memory.write font m a b) = true := by
  induction m generalizing lo with
  | nil =>
    unfold Memory.write
    split
    · rfl
    · next h => simp [Memory.wfFrom, hlo, ha, h]
  | cons p m ih =>
    obtain ⟨a', b'⟩ := p
    have hm' := hm
    simp only [Memory.wfFrom, Bool.and_eq_true, decide_eq_true_eq, bne_iff_ne] at hm'
    obtain ⟨⟨⟨h1, h2⟩, h3⟩, h4⟩ := hm'
    unfold Memory.write
    split
    · next hlt =>
      split
      · exact hm
      · next hb => simp [Memory.wfFrom, hlo, ha, hb, h2, h3, h4]; omega
    · split
      · next heq =>
        subst heq
        split
        · exact Memory.wfFrom_mono font (by omega) h4
        · next hb => simp [Memory.wfFrom, hlo, ha, hb, h4]
      · next h5 h6 =>
        simp only [Memory.wfFrom, Bool.and_eq_true, decide_eq_true_eq, bne_iff_ne]
        exact ⟨⟨⟨h1, h2⟩, h3⟩, ih (by omega) h4⟩

/-- Every write inside memory keeps the canonical form. -/
theorem Memory.wf_write (font : Font) {m : Memory} {a : Nat} (b : Byte) (ha : a < memSize) (hm : Memory.wf font m = true) :
    Memory.wf font (Memory.write font m a b) = true :=
  Memory.wfFrom_write font b (Nat.zero_le a) ha hm

/-- The reset memory, which lists nothing, is in canonical form. -/
theorem Memory.wf_nil (font : Font) : Memory.wf font [] = true := rfl

variable (s : State)

theorem State.readByte_storeByte_of_ne {a c : Nat} (b : Byte) (h : c ≠ a) :
    (s.storeByte a b).readByte c = s.readByte c :=
  Memory.read_write_of_ne s.config.font s.mem b h

theorem State.readByte_storeByte_self {a : Nat} (b : Byte) (hm : Memory.wf s.config.font s.mem = true) :
    (s.storeByte a b).readByte a = b :=
  Memory.read_write_self s.config.font b hm

/-- A block store changes memory alone. -/
theorem State.storeBytes_eq (a : Nat) (bs : List Byte) :
    s.storeBytes a bs = { s with mem := (s.storeBytes a bs).mem } := by
  induction bs generalizing s a with
  | nil => rfl
  | cons b bs ih => exact ih (s.storeByte a b) (a + 1)

section storeBytesFields
variable (a : Nat) (bs : List Byte)
@[simp] theorem State.storeBytes_v : (s.storeBytes a bs).v = s.v := by rw [State.storeBytes_eq]
@[simp] theorem State.storeBytes_i : (s.storeBytes a bs).i = s.i := by rw [State.storeBytes_eq]
@[simp] theorem State.storeBytes_pc : (s.storeBytes a bs).pc = s.pc := by rw [State.storeBytes_eq]
@[simp] theorem State.storeBytes_dt : (s.storeBytes a bs).dt = s.dt := by rw [State.storeBytes_eq]
@[simp] theorem State.storeBytes_st : (s.storeBytes a bs).st = s.st := by rw [State.storeBytes_eq]
@[simp] theorem State.storeBytes_stack : (s.storeBytes a bs).stack = s.stack := by rw [State.storeBytes_eq]
@[simp] theorem State.storeBytes_fb : (s.storeBytes a bs).fb = s.fb := by rw [State.storeBytes_eq]
@[simp] theorem State.storeBytes_key : (s.storeBytes a bs).key = s.key := by rw [State.storeBytes_eq]
@[simp] theorem State.storeBytes_runState : (s.storeBytes a bs).runState = s.runState := by rw [State.storeBytes_eq]
@[simp] theorem State.storeBytes_lastError : (s.storeBytes a bs).lastError = s.lastError := by rw [State.storeBytes_eq]
@[simp] theorem State.storeBytes_refused : (s.storeBytes a bs).refused = s.refused := by rw [State.storeBytes_eq]
@[simp] theorem State.storeBytes_draws : (s.storeBytes a bs).draws = s.draws := by rw [State.storeBytes_eq]
@[simp] theorem State.storeBytes_config : (s.storeBytes a bs).config = s.config := by rw [State.storeBytes_eq]
@[simp] theorem State.storeBytes_reg (y : Nibble) : (s.storeBytes a bs).reg y = s.reg y := by
  rw [State.storeBytes_eq]; rfl
@[simp] theorem State.storeBytes_depth : (s.storeBytes a bs).depth = s.depth := by rw [State.storeBytes_eq]; rfl
end storeBytesFields

/-- A block store leaves every byte outside the block alone. -/
theorem State.readByte_storeBytes_of_outside {a c : Nat} (bs : List Byte) (h : c < a ∨ a + bs.length ≤ c) :
    (s.storeBytes a bs).readByte c = s.readByte c := by
  induction bs generalizing s a with
  | nil => rfl
  | cons b bs ih =>
    simp only [List.length_cons] at h
    rw [State.storeBytes, ih _ (by omega), State.readByte_storeByte_of_ne _ _ (by omega)]

/-- A block store keeps the canonical form. -/
theorem State.wf_storeBytes {a : Nat} (bs : List Byte) (h : a + bs.length ≤ memSize)
    (hm : Memory.wf s.config.font s.mem = true) :
    Memory.wf s.config.font (s.storeBytes a bs).mem = true := by
  induction bs generalizing s a with
  | nil => exact hm
  | cons b bs ih =>
    simp only [List.length_cons] at h
    exact ih (s.storeByte a b) (by omega) (Memory.wf_write s.config.font b (by omega) hm)

/-- A block store puts its k-th byte at the k-th address. -/
theorem State.readByte_storeBytes {a k : Nat} (bs : List Byte) (hk : k < bs.length) (h : a + bs.length ≤ memSize)
    (hm : Memory.wf s.config.font s.mem = true) :
    (s.storeBytes a bs).readByte (a + k) = bs[k] := by
  induction bs generalizing s a k with
  | nil => simp at hk
  | cons b bs ih =>
    simp only [List.length_cons] at h hk
    have hm' : Memory.wf (s.storeByte a b).config.font (s.storeByte a b).mem = true :=
      Memory.wf_write s.config.font b (by omega) hm
    rw [State.storeBytes]
    cases k with
    | zero =>
      rw [State.readByte_storeBytes_of_outside _ _ (by omega)]
      exact State.readByte_storeByte_self s b hm
    | succ k =>
      have := ih (s.storeByte a b) (a := a + 1) (k := k) (by omega) (by omega) hm'
      rw [show a + (k + 1) = a + 1 + k by omega, this]
      simp

/-! ### The access check (R61, R62, R173) -/

/-- A passed read check: the block is inside memory. -/
theorem accessError_read_eq_none {a : Word} {m : Nat} (hm : 1 ≤ m) :
    accessError .read a m = none ↔ a.toNat + m ≤ memSize := by
  unfold accessError
  split
  · next h => simp only [reduceCtorEq, false_iff]; omega
  · next h => simp only [reduceCtorEq, false_and, if_false, true_iff]; omega

/-- A passed write check: the block is inside memory and outside the reserved region. -/
theorem accessError_write_eq_none {a : Word} {m : Nat} (hm : 1 ≤ m) :
    accessError .write a m = none ↔ reservedEnd ≤ a.toNat ∧ a.toNat + m ≤ memSize := by
  unfold accessError
  split
  · next h => simp only [reduceCtorEq, false_iff]; omega
  · next h =>
    simp only [true_and]
    split <;> simp only [reduceCtorEq, false_iff, true_iff] <;> omega

/-- Everything a checked instruction can do: raise the check's error, or go on. -/
theorem State.checked_cases (kind : AccessKind) (m : Nat) (rest : Result) :
    (∃ e, accessError kind s.i m = some e ∧ s.checked kind m rest = .next (s.raise e)) ∨
    (accessError kind s.i m = none ∧ s.checked kind m rest = rest) := by
  unfold State.checked
  split
  · next e h => exact .inl ⟨e, h, rfl⟩
  · next h => exact .inr ⟨h, rfl⟩

theorem State.checked_of_none {kind : AccessKind} {m : Nat} (rest : Result) (h : accessError kind s.i m = none) :
    s.checked kind m rest = rest := by
  simp only [State.checked, h]

theorem State.checked_of_some {kind : AccessKind} {m : Nat} {e : CoreError} (rest : Result)
    (h : accessError kind s.i m = some e) : s.checked kind m rest = .next (s.raise e) := by
  simp only [State.checked, h]

/-! ### The fetched word (R82) -/

theorem State.fetchWord_high : s.fetchWord.extractLsb' 8 8 = s.readByte s.pc.toNat := by
  unfold State.fetchWord
  apply BitVec.eq_of_getElem_eq; intro n hn
  rw [BitVec.getElem_extractLsb', BitVec.getLsbD_append]; simp [hn]

theorem State.fetchWord_low : s.fetchWord.extractLsb' 0 8 = s.readByte (s.pc.toNat + 1) := by
  unfold State.fetchWord
  apply BitVec.eq_of_getElem_eq; intro n hn
  rw [BitVec.getElem_extractLsb', BitVec.getLsbD_append]; simp [hn]

end Sys2Proof.Machine
end

