-- ==== Sys2Proof/Laws/Registers.lean ====
section
/-! SUPPORT. Reading a register, a key or the stack after writing one; the flag order of R140; the program counter's exact
sums (R27). -/

namespace Sys2Proof.Machine

variable (s : State)

@[simp] theorem State.reg_setReg (x y : Nibble) (b : Byte) :
    (s.setReg x b).reg y = if x = y then b else s.reg y := by
  simp only [State.reg, State.setReg, Vector.getElem_set, BitVec.toNat_inj]

@[simp] theorem State.reg_setFlag (y : Nibble) (f : Bool) :
    (s.setFlag f).reg y = if vf = y then flagByte f else s.reg y :=
  s.reg_setReg vf y (flagByte f)

/-- The flag wins when x = F (R140). -/
@[simp] theorem State.reg_setResultAndFlag (x y : Nibble) (r : Byte) (f : Bool) :
    (s.setResultAndFlag x r f).reg y = if vf = y then flagByte f else if x = y then r else s.reg y := by
  simp only [State.setResultAndFlag, State.reg_setFlag, State.reg_setReg]

theorem State.reg_setLogicResult (x y : Nibble) (r : Byte) :
    (s.setLogicResult x r).reg y =
      if s.config.vfResetOnLogic = true ∧ vf = y then 0#8 else if x = y then r else s.reg y := by
  unfold State.setLogicResult
  by_cases h : s.config.vfResetOnLogic = true <;> simp [h, flagByte]

@[simp] theorem State.reg_setRegs (r : Vector Byte 16) (y : Nibble) :
    (s.setRegs r).reg y = r[y.toNat]'y.isLt := rfl

@[simp] theorem State.isPressed_setKey (k k' : Nibble) (p : Bool) :
    (s.setKey k p).isPressed k' = if k = k' then p else s.isPressed k' := by
  simp only [State.isPressed, State.setKey, Vector.getElem_set, BitVec.toNat_inj]

/-- Advance is exact wherever an instruction can be fetched (R27). -/
theorem State.advance_pc_toNat (h : s.pc.toNat + 1 < memSize) : s.advance.pc.toNat = s.pc.toNat + 2 := by
  have h' : s.pc.toNat + 1 < 4096 := h
  simp only [State.advance_pc, BitVec.toNat_add, BitVec.toNat_ofNat]
  omega

/-- A skip is exact wherever an instruction can be fetched (R27, R119). -/
theorem State.skipIf_pc_toNat (c : Bool) (h : s.pc.toNat + 1 < memSize) :
    (s.skipIf c).pc.toNat = s.pc.toNat + if c then 4 else 2 := by
  have h' : s.pc.toNat + 1 < 4096 := h
  cases c <;> simp only [State.skipIf_pc, BitVec.toNat_add, BitVec.toNat_ofNat, if_true, Bool.false_eq_true, if_false] <;>
    omega

theorem addrWord_toNat (nnn : Addr) : (addrWord nnn).toNat = nnn.toNat := by
  have := nnn.isLt
  simp only [addrWord, BitVec.toNat_setWidth]
  omega

theorem byteWord_toNat (b : Byte) : (byteWord b).toNat = b.toNat := by
  have := b.isLt
  simp only [byteWord, BitVec.toNat_setWidth]
  omega

theorem fontAddress_toNat (d : Byte) (h : d.toNat ≤ 0xF) : (fontAddress d).toNat = 5 * d.toNat := by
  simp only [fontAddress, BitVec.toNat_ofNat]
  omega

/-- Everything a push can do (R31). -/
theorem State.push_eq_some {s t : State} {a : Word} (h : s.push a = some t) :
    s.depth < stackDepth ∧ t = s.setStack (a :: s.stack) := by
  unfold State.push at h
  split at h
  · exact ⟨‹_›, (Option.some.inj h).symm⟩
  · cases h

theorem State.push_eq_none {s : State} {a : Word} (h : s.push a = none) : stackDepth ≤ s.depth := by
  unfold State.push at h
  split at h
  · cases h
  · omega

/-- Everything a pop can do (R32). -/
theorem State.pop_eq_some {s t : State} {a : Word} (h : s.pop = some (a, t)) :
    ∃ l, s.stack = a :: l ∧ t = s.setStack l := by
  unfold State.pop at h
  split at h
  · cases h
  · next b l hl => cases h; exact ⟨l, hl, rfl⟩

theorem State.pop_eq_none {s : State} (h : s.pop = none) : s.stack = [] := by
  unfold State.pop at h
  split at h
  · assumption
  · cases h

/-! ### KEY_CHOICE -/

theorem mem_keyNumbers (k : Nibble) : k ∈ keyNumbers := by
  refine List.mem_map.2 ⟨k.toNat, List.mem_range.2 k.isLt, BitVec.ofNat_toNat 4 k |>.trans ?_⟩
  simp

theorem State.lowestKey_eq_some {s : State} {k : Nibble} (h : s.lowestKey = some k) : s.isPressed k = true :=
  List.find?_some h

theorem State.lowestKey_eq_none {s : State} (h : s.lowestKey = none) (k : Nibble) : s.isPressed k = false := by
  have := List.find?_eq_none.1 h k (mem_keyNumbers k)
  simpa using this

/-- KEY_CHOICE answers a pressed key (R9). -/
theorem State.chooseKey_eq_some {s : State} {k : Nibble} (h : s.chooseKey = some k) : s.isPressed k = true := by
  unfold State.chooseKey at h
  split at h
  · exact State.lowestKey_eq_some h
  · dsimp only at h
    split at h
    · cases h; assumption
    · exact State.lowestKey_eq_some h

/-- KEY_CHOICE answers nothing only where no key is pressed (R81, R213). -/
theorem State.chooseKey_eq_none {s : State} (h : s.chooseKey = none) (k : Nibble) : s.isPressed k = false := by
  unfold State.chooseKey at h
  split at h
  · exact State.lowestKey_eq_none h k
  · dsimp only at h
    split at h
    · cases h
    · exact State.lowestKey_eq_none h k

end Sys2Proof.Machine
end

