-- ==== Sys2Proof/Laws/Exec.lean ====
section
/-! SUPPORT. Everything each instruction that branches can do, and everything a cycle can do, said once in terms of the
shared operations. The other instructions are one update: their meaning is its own equation. -/

namespace Sys2Proof.Machine

variable (s : State)

theorem execRet_cases :
    (∃ a l, s.stack = a :: l ∧ execRet s = .next ((s.setStack l).setPc a)) ∨
    (s.stack = [] ∧ execRet s = .next (s.raise .stackUnderflow)) := by
  unfold execRet State.pop
  cases h : s.stack with
  | nil => exact .inr ⟨rfl, rfl⟩
  | cons a l => exact .inl ⟨a, l, rfl, rfl⟩

theorem execCall_cases (nnn : Addr) :
    (s.depth < stackDepth ∧
      execCall nnn s = .next ((s.setStack ((s.pc + 2#16) :: s.stack)).setPc (addrWord nnn))) ∨
    (stackDepth ≤ s.depth ∧ execCall nnn s = .next (s.raise .stackOverflow)) := by
  unfold execCall State.push
  by_cases h : s.depth < stackDepth
  · exact .inl ⟨h, by rw [if_pos h]⟩
  · exact .inr ⟨Nat.not_lt.1 h, by rw [if_neg h]⟩

theorem execLdF_cases (x : Nibble) :
    ((s.reg x).toNat ≤ 0xF ∧ execLdF x s = .next (s.setI (fontAddress (s.reg x))).advance) ∨
    (0xF < (s.reg x).toNat ∧ execLdF x s = .next (s.refuse (.fontDigitOutOfRange (s.reg x)))) := by
  unfold execLdF
  by_cases h : 0xF < (s.reg x).toNat
  · exact .inr ⟨h, if_pos h⟩
  · exact .inl ⟨Nat.not_lt.1 h, if_neg h⟩

theorem State.skipIfKey_cases (x : Nibble) (p : Bool) :
    ((s.reg x).toNat ≤ 0xF ∧ s.skipIfKey x p = s.skipIf (s.isPressed ((s.reg x).setWidth 4) == p)) ∨
    (0xF < (s.reg x).toNat ∧ s.skipIfKey x p = s.refuse (.keyOutOfRange (s.reg x))) := by
  unfold State.skipIfKey
  by_cases h : 0xF < (s.reg x).toNat
  · exact .inr ⟨h, if_pos h⟩
  · exact .inl ⟨Nat.not_lt.1 h, if_neg h⟩

theorem execLdVxK_cases (x : Nibble) :
    (∃ k, s.chooseKey = some k ∧ execLdVxK x s = .next (s.setReg x (keyByte k)).advance) ∨
    (s.chooseKey = none ∧ execLdVxK x s = .next (s.setRunState (.waitingForKey x))) := by
  unfold execLdVxK
  cases h : s.chooseKey with
  | none => exact .inr ⟨rfl, rfl⟩
  | some k => exact .inl ⟨k, rfl, rfl⟩

theorem execLdB_cases (x : Nibble) :
    (s.i.toNat ≥ reservedEnd ∧ s.i.toNat + 3 ≤ memSize ∧
      execLdB x s = .next (s.storeBytes s.i.toNat (bcdDigits (s.reg x))).advance) ∨
    (∃ e, accessError .write s.i 3 = some e ∧ execLdB x s = .next (s.raise e)) := by
  rcases s.checked_cases .write 3 (.next (s.storeBytes s.i.toNat (bcdDigits (s.reg x))).advance) with
    ⟨e, h, h'⟩ | ⟨h, h'⟩
  · exact .inr ⟨e, h, h'⟩
  · obtain ⟨h1, h2⟩ := (accessError_write_eq_none (by omega)).1 h
    exact .inl ⟨h1, h2, h'⟩

theorem execLdMemRegs_cases (x : Nibble) :
    (s.i.toNat ≥ reservedEnd ∧ s.i.toNat + (x.toNat + 1) ≤ memSize ∧
      execLdMemRegs x s = .next ((s.storeBytes s.i.toNat (s.regsUpTo x)).setI (s.blockIndex x)).advance) ∨
    (∃ e, accessError .write s.i (x.toNat + 1) = some e ∧ execLdMemRegs x s = .next (s.raise e)) := by
  rcases s.checked_cases .write (x.toNat + 1)
    (.next ((s.storeBytes s.i.toNat (s.regsUpTo x)).setI (s.blockIndex x)).advance) with ⟨e, h, h'⟩ | ⟨h, h'⟩
  · exact .inr ⟨e, h, h'⟩
  · obtain ⟨h1, h2⟩ := (accessError_write_eq_none (by omega)).1 h
    exact .inl ⟨h1, h2, h'⟩

theorem execLdRegsMem_cases (x : Nibble) :
    (s.i.toNat + (x.toNat + 1) ≤ memSize ∧
      execLdRegsMem x s = .next ((s.setRegs (s.loadedRegs x s.i.toNat)).setI (s.blockIndex x)).advance) ∨
    (∃ e, accessError .read s.i (x.toNat + 1) = some e ∧ execLdRegsMem x s = .next (s.raise e)) := by
  rcases s.checked_cases .read (x.toNat + 1)
    (.next ((s.setRegs (s.loadedRegs x s.i.toNat)).setI (s.blockIndex x)).advance) with ⟨e, h, h'⟩ | ⟨h, h'⟩
  · exact .inr ⟨e, h, h'⟩
  · exact .inl ⟨(accessError_read_eq_none (by omega)).1 h, h'⟩

/-- The drawing is named once, so that no later proof carries it unfolded. -/
theorem execDrw_cases (x y n : Nibble) :
    (∃ d, d = s.fb.draw (s.reg x).toNat (s.reg y).toNat (s.readBytes s.i.toNat n.toNat) ∧
      accessError .read s.i n.toNat = none ∧ execDrw x y n s = .next ((s.setFb d.fb).setFlag d.collided).advance) ∨
    (∃ e, accessError .read s.i n.toNat = some e ∧ execDrw x y n s = .next (s.raise e)) := by
  unfold execDrw
  generalize s.fb.draw (s.reg x).toNat (s.reg y).toNat (s.readBytes s.i.toNat n.toNat) = d
  rcases s.checked_cases .read n.toNat (.next ((s.setFb d.fb).setFlag d.collided).advance) with ⟨e, h, h'⟩ | ⟨h, h'⟩
  · exact .inr ⟨e, h, h'⟩
  · exact .inl ⟨d, rfl, h, h'⟩

/-- A fetch succeeds exactly where both bytes are inside memory (R83). -/
theorem fetchError_eq_none {pc : Word} : fetchError pc = none ↔ pc.toNat + 1 < memSize := by
  unfold fetchError
  split
  · simp only [reduceCtorEq, false_iff]; omega
  · split
    · simp only [reduceCtorEq, false_iff]; omega
    · simp only [true_iff]; omega

theorem State.resumeKeyWait_cases (x : Nibble) :
    (∃ k, s.chooseKey = some k ∧ s.resumeKeyWait x = (s.setReg x (keyByte k)).advance.setRunState .running) ∨
    (s.chooseKey = none ∧ s.resumeKeyWait x = s) := by
  unfold State.resumeKeyWait
  cases h : s.chooseKey with
  | none => exact .inr ⟨rfl, rfl⟩
  | some k => exact .inl ⟨k, rfl, rfl⟩

theorem State.invalidOpcode_cases (op : Word) :
    (s.config.invalidOpcodePolicy = .halt ∧ s.invalidOpcode op = s.raise (.invalidOpcode op)) ∨
    (s.config.invalidOpcodePolicy = .skip ∧ s.invalidOpcode op = (s.recordError (.invalidOpcode op)).advance) := by
  unfold State.invalidOpcode
  cases h : s.config.invalidOpcodePolicy
  · exact .inl ⟨rfl, rfl⟩
  · exact .inr ⟨rfl, rfl⟩

/-- Everything one step can do (R81, R237). -/
theorem step_cases :
    step s = .next s ∨
    (s.refused = none ∧ ∃ x, s.runState = .waitingForKey x ∧ step s = .next (s.resumeKeyWait x)) ∨
    (s.refused = none ∧ s.runState = .running ∧ ∃ e, fetchError s.pc = some e ∧ step s = .next (s.raise e)) ∨
    (s.refused = none ∧ s.runState = .running ∧ s.pc.toNat + 1 < memSize ∧ ∃ i,
      decodeWord s.config.canonicalExtras s.fetchWord = .ok i ∧ step s = exec i s) ∨
    (s.refused = none ∧ s.runState = .running ∧ s.pc.toNat + 1 < memSize ∧ ∃ e,
      decodeWord s.config.canonicalExtras s.fetchWord = .error e ∧ step s = .next (s.invalidOpcode s.fetchWord)) := by
  unfold step State.cycle
  cases hr : s.refused with
  | some r => exact .inl rfl
  | none =>
    simp only [Option.isSome_none, Bool.false_eq_true, if_false]
    cases hs : s.runState with
    | halted e => exact .inl rfl
    | waitingForKey x => exact .inr (.inl ⟨trivial, x, rfl, rfl⟩)
    | running =>
      unfold State.fetchAndExecute
      cases hf : fetchError s.pc with
      | some e => exact .inr (.inr (.inl ⟨trivial, rfl, e, rfl, rfl⟩))
      | none =>
        have hpc := fetchError_eq_none.1 hf
        cases hd : decodeWord s.config.canonicalExtras s.fetchWord with
        | ok i => exact .inr (.inr (.inr (.inl ⟨trivial, rfl, hpc, i, rfl, rfl⟩)))
        | error e => exact .inr (.inr (.inr (.inr ⟨trivial, rfl, hpc, e, rfl, rfl⟩)))

end Sys2Proof.Machine
end

