-- ==== Sys2Proof/Laws/Outcomes.lean ====
section
/-! SUPPORT. Everything any instruction can do to each part of the state, said once for all of them: it raises, it refuses,
it starts a key wait, or it changes only the parts it writes. -/

namespace Sys2Proof.Machine

/-- What an instruction that neither raises, nor refuses, nor starts to wait leaves, part by part. -/
structure OrdinaryEffect (i : Instr) (s t : State) : Prop where
  runState : t.runState = s.runState
  refused : t.refused = s.refused
  lastError : t.lastError = s.lastError
  key : t.key = s.key
  config : t.config = s.config
  dt : t.dt = s.dt ∨ ∃ x, i = .ldDt x
  st : t.st = s.st ∨ ∃ x, i = .ldSt x
  fb : t.fb = s.fb ∨ i = .cls ∨ ∃ x y n, i = .drw x y n
  stack : t.stack = s.stack ∨ i = .ret ∨ ∃ nnn, i = .call nnn
  index : t.i = s.i ∨ writesIndex s.config.loadStoreIncrementsI i = true
  memory : (∀ a, t.readByte a = s.readByte a) ∨ ∃ x, i = .ldB x ∨ i = .ldMemRegs x
  draws : t.draws = s.draws ∨ ∃ x kk, i = .rnd x kk
  pc : t.pc = s.pc + 2#16 ∨ (t.pc = s.pc + 4#16 ∧ isSkip i = true) ∨ isTransfer i = true

theorem State.blockIndex_cases (s : State) (x : Nibble) :
    s.blockIndex x = s.i ∨ s.config.loadStoreIncrementsI = true := by
  unfold State.blockIndex; split
  · exact .inr ‹_›
  · exact .inl rfl

/-- A skip is an ordinary effect. -/
theorem skipIf_ordinary (i : Instr) (s : State) (c : Bool) (h : isSkip i = true) : OrdinaryEffect i s (s.skipIf c) := by
  cases c <;> constructor <;> simp [State.skipIf, h]

/-- Everything an instruction can do. -/
theorem exec_outcomes {i : Instr} {s t : State} (h : exec i s = .next t) :
    (∃ e, t = s.raise e) ∨
    (∃ x, i = .ldF x ∧ 0xF < (s.reg x).toNat ∧ t = s.refuse (.fontDigitOutOfRange (s.reg x))) ∨
    (∃ x, (i = .skp x ∨ i = .sknp x) ∧ 0xF < (s.reg x).toNat ∧ t = s.refuse (.keyOutOfRange (s.reg x))) ∨
    (∃ x, i = .ldVxK x ∧ t = s.setRunState (.waitingForKey x)) ∨
    OrdinaryEffect i s t := by
  have ord : ∀ {u}, exec i s = .next u → OrdinaryEffect i s u → OrdinaryEffect i s t := fun h' ho =>
    Host.Outcome.next.inj (h.symm.trans h') ▸ ho
  have eq : ∀ {u}, exec i s = .next u → t = u := fun h' => Host.Outcome.next.inj (h.symm.trans h')
  have five {a b c d : Prop} : OrdinaryEffect i s t → a ∨ b ∨ c ∨ d ∨ OrdinaryEffect i s t := fun ho =>
    .inr (.inr (.inr (.inr ho)))
  cases i with
  | ret =>
    rcases execRet_cases s with ⟨a, l, _, h'⟩ | ⟨_, h'⟩
    · exact five (ord h' (by constructor <;> simp [isTransfer]))
    · exact .inl ⟨_, eq h'⟩
  | call n =>
    rcases execCall_cases s n with ⟨_, h'⟩ | ⟨_, h'⟩
    · exact five (ord h' (by constructor <;> simp [isTransfer]))
    · exact .inl ⟨_, eq h'⟩
  | ldF x =>
    rcases execLdF_cases s x with ⟨_, h'⟩ | ⟨hx, h'⟩
    · exact five (ord h' (by constructor <;> simp [writesIndex, State.advance]))
    · exact .inr (.inl ⟨x, rfl, hx, eq h'⟩)
  | skp x =>
    rcases s.skipIfKey_cases x true with ⟨_, h'⟩ | ⟨hx, h'⟩
    · exact five (ord rfl (h' ▸ skipIf_ordinary _ s _ rfl))
    · exact .inr (.inr (.inl ⟨x, .inl rfl, hx, h' ▸ eq rfl⟩))
  | sknp x =>
    rcases s.skipIfKey_cases x false with ⟨_, h'⟩ | ⟨hx, h'⟩
    · exact five (ord rfl (h' ▸ skipIf_ordinary _ s _ rfl))
    · exact .inr (.inr (.inl ⟨x, .inr rfl, hx, h' ▸ eq rfl⟩))
  | ldVxK x =>
    rcases execLdVxK_cases s x with ⟨k, _, h'⟩ | ⟨_, h'⟩
    · exact five (ord h' (by constructor <;> simp [State.advance]))
    · exact .inr (.inr (.inr (.inl ⟨x, rfl, eq h'⟩)))
  | ldB x =>
    rcases execLdB_cases s x with ⟨_, _, h'⟩ | ⟨e, _, h'⟩
    · exact five (ord h' (by constructor <;> simp [State.advance]))
    · exact .inl ⟨e, eq h'⟩
  | ldMemRegs x =>
    rcases execLdMemRegs_cases s x with ⟨_, _, h'⟩ | ⟨e, _, h'⟩
    · exact five (ord h' (by constructor <;> simp [State.advance, writesIndex, State.blockIndex_cases]))
    · exact .inl ⟨e, eq h'⟩
  | ldRegsMem x =>
    rcases execLdRegsMem_cases s x with ⟨_, h'⟩ | ⟨e, _, h'⟩
    · exact five (ord h' (by constructor <;> simp [State.advance, writesIndex, State.blockIndex_cases]))
    · exact .inl ⟨e, eq h'⟩
  | drw x y n =>
    rcases execDrw_cases s x y n with ⟨d, _, _, h'⟩ | ⟨e, _, h'⟩
    · exact five (ord h' (by constructor <;> simp [State.advance, State.setFlag]))
    · exact .inl ⟨e, eq h'⟩
  | seImm x kk => exact five (ord rfl (skipIf_ordinary _ s _ rfl))
  | sneImm x kk => exact five (ord rfl (skipIf_ordinary _ s _ rfl))
  | seReg x y => exact five (ord rfl (skipIf_ordinary _ s _ rfl))
  | sneReg x y => exact five (ord rfl (skipIf_ordinary _ s _ rfl))
  | _ =>
    exact five (ord rfl (by
      constructor <;> simp [State.advance, isTransfer, writesIndex, State.setResultAndFlag, State.setFlag]))

end Sys2Proof.Machine
end

