-- ==== Sys2Proof/Laws/PerInstr.lean ====
section
/-! SUPPORT. One lemma per instruction about its syntax: the word that encodes it lies in its row of
spec/opcode_table.json, for every value of its fields, and is stored as two bytes (R80, R87). -/

namespace Sys2Proof.Laws.TableRow

/-- The mask of an instruction's row of the opcode table. -/
def mask : Instr → Word
  | .sys _ => 0xF000#16
  | .cls => 0xFFFF#16
  | .ret => 0xFFFF#16
  | .jp _ => 0xF000#16
  | .call _ => 0xF000#16
  | .seImm _ _ => 0xF000#16
  | .sneImm _ _ => 0xF000#16
  | .seReg _ _ => 0xF00F#16
  | .ldImm _ _ => 0xF000#16
  | .addImm _ _ => 0xF000#16
  | .ldReg _ _ => 0xF00F#16
  | .or _ _ => 0xF00F#16
  | .and _ _ => 0xF00F#16
  | .xor _ _ => 0xF00F#16
  | .addReg _ _ => 0xF00F#16
  | .sub _ _ => 0xF00F#16
  | .shr _ _ => 0xF00F#16
  | .subn _ _ => 0xF00F#16
  | .shl _ _ => 0xF00F#16
  | .sneReg _ _ => 0xF00F#16
  | .ldI _ => 0xF000#16
  | .jpV0 _ => 0xF000#16
  | .rnd _ _ => 0xF000#16
  | .drw _ _ _ => 0xF000#16
  | .skp _ => 0xF0FF#16
  | .sknp _ => 0xF0FF#16
  | .ldVxDt _ => 0xF0FF#16
  | .ldVxK _ => 0xF0FF#16
  | .ldDt _ => 0xF0FF#16
  | .ldSt _ => 0xF0FF#16
  | .addI _ => 0xF0FF#16
  | .ldF _ => 0xF0FF#16
  | .ldB _ => 0xF0FF#16
  | .ldMemRegs _ => 0xF0FF#16
  | .ldRegsMem _ => 0xF0FF#16

/-- The match value of an instruction's row of the opcode table. -/
def pattern : Instr → Word
  | .sys _ => 0x0000#16
  | .cls => 0x00E0#16
  | .ret => 0x00EE#16
  | .jp _ => 0x1000#16
  | .call _ => 0x2000#16
  | .seImm _ _ => 0x3000#16
  | .sneImm _ _ => 0x4000#16
  | .seReg _ _ => 0x5000#16
  | .ldImm _ _ => 0x6000#16
  | .addImm _ _ => 0x7000#16
  | .ldReg _ _ => 0x8000#16
  | .or _ _ => 0x8001#16
  | .and _ _ => 0x8002#16
  | .xor _ _ => 0x8003#16
  | .addReg _ _ => 0x8004#16
  | .sub _ _ => 0x8005#16
  | .shr _ _ => 0x8006#16
  | .subn _ _ => 0x8007#16
  | .shl _ _ => 0x800E#16
  | .sneReg _ _ => 0x9000#16
  | .ldI _ => 0xA000#16
  | .jpV0 _ => 0xB000#16
  | .rnd _ _ => 0xC000#16
  | .drw _ _ _ => 0xD000#16
  | .skp _ => 0xE09E#16
  | .sknp _ => 0xE0A1#16
  | .ldVxDt _ => 0xF007#16
  | .ldVxK _ => 0xF00A#16
  | .ldDt _ => 0xF015#16
  | .ldSt _ => 0xF018#16
  | .addI _ => 0xF01E#16
  | .ldF _ => 0xF029#16
  | .ldB _ => 0xF033#16
  | .ldMemRegs _ => 0xF055#16
  | .ldRegsMem _ => 0xF065#16

/-- The instruction's word lies in its row, and its bytes are that word's, the high one first. -/
def Statement (i : Instr) : Prop :=
  encode i &&& mask i = pattern i ∧ (encodeBytes i).length = 2 ∧
  ∃ hi lo, encodeBytes i = [hi, lo] ∧ wordOfBytes hi lo = encode i

/-- The second half of the statement holds of every instruction alike. -/
theorem ofRow {i : Instr} (h : encode i &&& mask i = pattern i) : Statement i :=
  ⟨h, rfl, _, _, rfl, wordOfBytes_bytesOfWord (encode i)⟩

/-- A word of format A and a mask of the class nibble. -/
theorem maskA (o : Nibble) (nnn : Addr) : (o ++ nnn) &&& 0xF000#16 = o ++ 0#12 := by
  rw [show (0xF000#16 : Word) = 0xF#4 ++ 0#12 from rfl, BitVec.and_append, BitVec.and_zero,
    show (0xF#4 : Nibble) = BitVec.allOnes 4 from rfl, BitVec.and_allOnes]

/-- A word of format XK or XYN and a mask of the class nibble. -/
theorem maskXK (o x : Nibble) (kk : Byte) : (o ++ x ++ kk) &&& 0xF000#16 = o ++ 0#4 ++ 0#8 := by
  rw [show (0xF000#16 : Word) = 0xF#4 ++ 0#4 ++ 0#8 from rfl, BitVec.and_append, BitVec.and_append, BitVec.and_zero,
    BitVec.and_zero, show (0xF#4 : Nibble) = BitVec.allOnes 4 from rfl, BitVec.and_allOnes]

theorem maskXYN (o x y n : Nibble) : (o ++ x ++ y ++ n) &&& 0xF000#16 = o ++ 0#4 ++ 0#4 ++ 0#4 := by
  rw [show (0xF000#16 : Word) = 0xF#4 ++ 0#4 ++ 0#4 ++ 0#4 from rfl, BitVec.and_append, BitVec.and_append,
    BitVec.and_append, BitVec.and_zero, BitVec.and_zero, BitVec.and_zero,
    show (0xF#4 : Nibble) = BitVec.allOnes 4 from rfl, BitVec.and_allOnes]

/-- A word of format XY and a mask of its class and function nibbles. -/
theorem maskXY (o x y f : Nibble) : (o ++ x ++ y ++ f) &&& 0xF00F#16 = o ++ 0#4 ++ 0#4 ++ f := by
  rw [show (0xF00F#16 : Word) = 0xF#4 ++ 0#4 ++ 0#4 ++ 0xF#4 from rfl, BitVec.and_append, BitVec.and_append,
    BitVec.and_append, BitVec.and_zero, BitVec.and_zero,
    show (0xF#4 : Nibble) = BitVec.allOnes 4 from rfl, BitVec.and_allOnes, BitVec.and_allOnes]

/-- A word of format XF and a mask of its class nibble and function byte. -/
theorem maskXF (o x : Nibble) (f : Byte) : (o ++ x ++ f) &&& 0xF0FF#16 = o ++ 0#4 ++ f := by
  rw [show (0xF0FF#16 : Word) = 0xF#4 ++ 0#4 ++ 0xFF#8 from rfl, BitVec.and_append, BitVec.and_append, BitVec.and_zero,
    show (0xF#4 : Nibble) = BitVec.allOnes 4 from rfl, show (0xFF#8 : Byte) = BitVec.allOnes 8 from rfl,
    BitVec.and_allOnes, BitVec.and_allOnes]

theorem sys (nnn : Addr) : Statement (.sys nnn) := ofRow (maskA _ nnn)
theorem cls : Statement (.cls) := ofRow (rfl)
theorem ret : Statement (.ret) := ofRow (rfl)
theorem jp (nnn : Addr) : Statement (.jp nnn) := ofRow (maskA _ nnn)
theorem call (nnn : Addr) : Statement (.call nnn) := ofRow (maskA _ nnn)
theorem seImm (x : Nibble) (kk : Byte) : Statement (.seImm x kk) := ofRow (maskXK _ x kk)
theorem sneImm (x : Nibble) (kk : Byte) : Statement (.sneImm x kk) := ofRow (maskXK _ x kk)
theorem seReg (x y : Nibble) : Statement (.seReg x y) := ofRow (maskXY _ x y _)
theorem ldImm (x : Nibble) (kk : Byte) : Statement (.ldImm x kk) := ofRow (maskXK _ x kk)
theorem addImm (x : Nibble) (kk : Byte) : Statement (.addImm x kk) := ofRow (maskXK _ x kk)
theorem ldReg (x y : Nibble) : Statement (.ldReg x y) := ofRow (maskXY _ x y _)
theorem or (x y : Nibble) : Statement (.or x y) := ofRow (maskXY _ x y _)
theorem and (x y : Nibble) : Statement (.and x y) := ofRow (maskXY _ x y _)
theorem xor (x y : Nibble) : Statement (.xor x y) := ofRow (maskXY _ x y _)
theorem addReg (x y : Nibble) : Statement (.addReg x y) := ofRow (maskXY _ x y _)
theorem sub (x y : Nibble) : Statement (.sub x y) := ofRow (maskXY _ x y _)
theorem shr (x y : Nibble) : Statement (.shr x y) := ofRow (maskXY _ x y _)
theorem subn (x y : Nibble) : Statement (.subn x y) := ofRow (maskXY _ x y _)
theorem shl (x y : Nibble) : Statement (.shl x y) := ofRow (maskXY _ x y _)
theorem sneReg (x y : Nibble) : Statement (.sneReg x y) := ofRow (maskXY _ x y _)
theorem ldI (nnn : Addr) : Statement (.ldI nnn) := ofRow (maskA _ nnn)
theorem jpV0 (nnn : Addr) : Statement (.jpV0 nnn) := ofRow (maskA _ nnn)
theorem rnd (x : Nibble) (kk : Byte) : Statement (.rnd x kk) := ofRow (maskXK _ x kk)
theorem drw (x y n : Nibble) : Statement (.drw x y n) := ofRow (maskXYN _ x y n)
theorem skp (x : Nibble) : Statement (.skp x) := ofRow (maskXF _ x _)
theorem sknp (x : Nibble) : Statement (.sknp x) := ofRow (maskXF _ x _)
theorem ldVxDt (x : Nibble) : Statement (.ldVxDt x) := ofRow (maskXF _ x _)
theorem ldVxK (x : Nibble) : Statement (.ldVxK x) := ofRow (maskXF _ x _)
theorem ldDt (x : Nibble) : Statement (.ldDt x) := ofRow (maskXF _ x _)
theorem ldSt (x : Nibble) : Statement (.ldSt x) := ofRow (maskXF _ x _)
theorem addI (x : Nibble) : Statement (.addI x) := ofRow (maskXF _ x _)
theorem ldF (x : Nibble) : Statement (.ldF x) := ofRow (maskXF _ x _)
theorem ldB (x : Nibble) : Statement (.ldB x) := ofRow (maskXF _ x _)
theorem ldMemRegs (x : Nibble) : Statement (.ldMemRegs x) := ofRow (maskXF _ x _)
theorem ldRegsMem (x : Nibble) : Statement (.ldRegsMem x) := ofRow (maskXF _ x _)

end Sys2Proof.Laws.TableRow
end

