-- ==== Sys2Proof/Laws/Transactions.lean ====
section
/-! SUPPORT. What one move of the host can do, what a load leaves, and the one induction over schedules. -/

namespace Sys2Proof.Machine

/-- A move is the transaction's effect on CORE, where the duties allow it (R251). -/
theorem transact_eq_some {t : Transaction} {y z : System} :
    transact t y = some z ↔
      t.allowed y.fresh = true ∧ perform t y.core = .next z.core ∧ z.fresh = t.freshAfter y.fresh := by
  obtain ⟨core, fresh⟩ := z
  unfold transact
  by_cases ha : t.allowed y.fresh = true
  · rw [if_pos ha]
    cases perform t y.core with
    | next s => simp [ha, eq_comm]
    | fault r => simp
    | refused r => simp
  · rw [if_neg ha]; simp [ha]

/-- A transaction that a duty forbids has no move (R251). -/
theorem transact_of_not_allowed {t : Transaction} {y : System} (h : t.allowed y.fresh = false) : transact t y = none :=
  if_neg (by simp [h])

@[simp] theorem runSchedule_nil (y : System) : runSchedule [] y = some y := rfl

/-- A schedule runs to its end exactly by a first move and a run of the rest. -/
theorem runSchedule_cons_eq_some {t : Transaction} {ts : List Transaction} {y z : System} :
    runSchedule (t :: ts) y = some z ↔ ∃ w, transact t y = some w ∧ runSchedule ts w = some z := by
  rw [runSchedule]
  cases transact t y <;> simp

/-- What every move of a schedule keeps, the schedule keeps. -/
theorem runSchedule_keeps {P : System → Prop} {ts : List Transaction}
    (hmove : ∀ t ∈ ts, ∀ y z, P y → transact t y = some z → P z) {y z : System} (hy : P y)
    (h : runSchedule ts y = some z) : P z := by
  induction ts generalizing y with
  | nil => rw [runSchedule_nil] at h; exact Option.some.inj h ▸ hy
  | cons t ts ih =>
    obtain ⟨w, hw, hz⟩ := runSchedule_cons_eq_some.1 h
    exact ih (fun t' ht' => hmove t' (List.mem_cons_of_mem t ht')) (hmove t List.mem_cons_self y w hy hw) hz

variable (s : State) (bytes : List Byte)

/-- Everything LoadProgram can do (R272). -/
theorem State.loadProgram_cases :
    (programBase + bytes.length ≤ memSize ∧ s.loadProgram bytes = s.storeBytes programBase bytes) ∨
    (memSize < programBase + bytes.length ∧ s.loadProgram bytes = s.raise (.programTooLarge bytes.length)) := by
  unfold State.loadProgram
  by_cases h : programBase + bytes.length > memSize
  · exact .inr ⟨h, if_pos h⟩
  · exact .inl ⟨Nat.not_lt.1 h, if_neg h⟩

/-- A timer goes down by one and stops at 0 (R245). -/
theorem tickTimer_toNat (t : Byte) : (tickTimer t).toNat = t.toNat - 1 := by
  unfold tickTimer
  split
  · rw [BitVec.toNat_sub_of_le (by rw [BitVec.le_def]; exact ‹0 < t.toNat›)]; rfl
  · omega

end Sys2Proof.Machine
end

