-- ==== Sys2Proof/Tests/Slice0.lean ====
section
/-! SUPPORT. The model's own tests. Expected results are the vectors of 95_test_vectors.md (their ids stand beside them) and
the examples of the rules; words are written out from the spec's encodings. The last part has, for every statement with
hypotheses, a state and operands that meet them, clause by clause at the ends of their ranges. -/

namespace Sys2Proof.Tests

open Sys2Proof Sys2Proof.Machine

/-- What `f` reads from the next state, if there is one. -/
def after {α : Type} (r : Result) (f : State → α) : Option α :=
  match r with
  | .next s => some (f s)
  | .fault _ => none
  | .refused _ => none

/-- The reset state with two registers set. -/
def regs2 (x : Nibble) (a : Byte) (y : Nibble) (b : Byte) : State := (State.reset.setReg x a).setReg y b

/-- The reset state in another configuration. -/
def withConfig (s : State) (c : Config) : State := { s with config := c }

/-- The reset state about to execute the word `op`. -/
def fetching (op : Nat) : State := State.reset.withFetchWord 16 op

/-! ### Ill-formed terms -/

theorem test_wf_refuses_sys_00E0 : (Instr.sys 0x0E0#12).wf true = false := by decide
theorem test_wf_refuses_sys_00EE : (Instr.sys 0x0EE#12).wf true = false := by decide
theorem test_wf_refuses_sys_without_extras : (Instr.sys 0x123#12).wf false = false := by decide
theorem test_wf_refuses_subn_without_extras : (Instr.subn 1#4 2#4).wf false = false := by decide

/-! ### Decoding: one word per row, from the encodings of R88 and the vectors of 95 -/

theorem test_decode_sys : decodeTableWord 16 0x0ABC = some (.sys 0xABC#12) := by decide
theorem test_decode_cls : decodeTableWord 16 0x00E0 = some .cls := by decide
theorem test_decode_ret : decodeTableWord 16 0x00EE = some .ret := by decide
theorem test_decode_jp : decodeTableWord 16 0x1ABC = some (.jp 0xABC#12) := by decide
theorem test_decode_call : decodeTableWord 16 0x2204 = some (.call 0x204#12) := by decide
theorem test_decode_seImm : decodeTableWord 16 0x3342 = some (.seImm 3#4 0x42#8) := by decide
theorem test_decode_sneImm : decodeTableWord 16 0x4342 = some (.sneImm 3#4 0x42#8) := by decide
theorem test_decode_seReg : decodeTableWord 16 0x5120 = some (.seReg 1#4 2#4) := by decide
theorem test_decode_ldImm : decodeTableWord 16 0x600A = some (.ldImm 0#4 0x0A#8) := by decide
theorem test_decode_addImm : decodeTableWord 16 0x7005 = some (.addImm 0#4 0x05#8) := by decide
theorem test_decode_ldReg : decodeTableWord 16 0x8120 = some (.ldReg 1#4 2#4) := by decide
theorem test_decode_or : decodeTableWord 16 0x8121 = some (.or 1#4 2#4) := by decide
theorem test_decode_and : decodeTableWord 16 0x8122 = some (.and 1#4 2#4) := by decide
theorem test_decode_xor : decodeTableWord 16 0x8123 = some (.xor 1#4 2#4) := by decide
theorem test_decode_addReg : decodeTableWord 16 0x8124 = some (.addReg 1#4 2#4) := by decide
theorem test_decode_sub : decodeTableWord 16 0x8125 = some (.sub 1#4 2#4) := by decide
theorem test_decode_shr : decodeTableWord 16 0x8126 = some (.shr 1#4 2#4) := by decide
theorem test_decode_subn : decodeTableWord 16 0x8127 = some (.subn 1#4 2#4) := by decide
theorem test_decode_shl : decodeTableWord 16 0x812E = some (.shl 1#4 2#4) := by decide
theorem test_decode_sneReg : decodeTableWord 16 0x9120 = some (.sneReg 1#4 2#4) := by decide
theorem test_decode_ldI : decodeTableWord 16 0xA2F0 = some (.ldI 0x2F0#12) := by decide
theorem test_decode_jpV0 : decodeTableWord 16 0xB220 = some (.jpV0 0x220#12) := by decide
theorem test_decode_rnd : decodeTableWord 16 0xC10F = some (.rnd 1#4 0x0F#8) := by decide
theorem test_decode_drw : decodeTableWord 16 0xD123 = some (.drw 1#4 2#4 3#4) := by decide
theorem test_decode_skp : decodeTableWord 16 0xE59E = some (.skp 5#4) := by decide
theorem test_decode_sknp : decodeTableWord 16 0xE5A1 = some (.sknp 5#4) := by decide
theorem test_decode_ldVxDt : decodeTableWord 16 0xF307 = some (.ldVxDt 3#4) := by decide
theorem test_decode_ldVxK : decodeTableWord 16 0xF20A = some (.ldVxK 2#4) := by decide
theorem test_decode_ldDt : decodeTableWord 16 0xF115 = some (.ldDt 1#4) := by decide
theorem test_decode_ldSt : decodeTableWord 16 0xF118 = some (.ldSt 1#4) := by decide
theorem test_decode_addI : decodeTableWord 16 0xF21E = some (.addI 2#4) := by decide
theorem test_decode_ldF : decodeTableWord 16 0xF429 = some (.ldF 4#4) := by decide
theorem test_decode_ldB : decodeTableWord 16 0xF033 = some (.ldB 0#4) := by decide
theorem test_decode_ldMemRegs : decodeTableWord 16 0xF255 = some (.ldMemRegs 2#4) := by decide
theorem test_decode_ldRegsMem : decodeTableWord 16 0xF265 = some (.ldRegsMem 2#4) := by decide
/-- VF5, VF6, VS7, VS10, VA28, VA29 and R92's 0xF030: Unknown words. -/
theorem test_decode_unknown :
    [0xF001, 0xE000, 0x5121, 0x912F, 0x8128, 0x812F, 0xF030].map (decodeTableWord 16) = List.replicate 7 none := by
  decide
/-- VF12: without CANONICAL_EXTRAS 0x00E1 and 8xy7 are Unknown. -/
theorem test_decode_without_extras :
    decodeWord false 0x00E1#16 = .error (.unknown 0x00E1#16) ∧ decodeWord false 0x8127#16 = .error (.unknown 0x8127#16) := by
  decide

/-! ### The cycle -/

/-- E8, first Cycle: the loaded program's first word runs. -/
theorem test_step_runs_loaded_program :
    (runSchedule [.loadProgram [0x60#8, 0x0A#8, 0x70#8, 0x05#8], .cycle] (System.constructed Config.default)).map
      (fun y => (y.core.reg 0#4, y.core.pc, y.fresh)) = some (0x0A#8, 0x202#16, false) := by decide
/-- VF1, VF2, VF3: a fetch past the end halts, pc unchanged. -/
theorem test_step_fetch_at_FFF : (after (step (State.reset.setPc 0xFFF#16)) fun t => (t.runState, t.lastError, t.pc)) =
    some (.halted (.outOfBoundsMemoryAccess 0x1000#16), some (.outOfBoundsMemoryAccess 0x1000#16), 0xFFF#16) := by decide
theorem test_step_fetch_at_10FE : (after (step (State.reset.setPc 0x10FE#16)) fun t => t.runState) =
    some (.halted (.outOfBoundsMemoryAccess 0x10FE#16)) := by decide
/-- VF4: an odd pc fetches. -/
theorem test_step_odd_fetch :
    (after (step ((State.reset.storeBytes 0x201 [0x60#8, 0x07#8]).setPc 0x201#16)) fun t => (t.reg 0#4, t.pc)) =
      some (0x07#8, 0x203#16) := by decide
/-- VF5. -/
theorem test_step_unknown_halts : (after (step (fetching 0xF001)) fun t => (t.runState, t.pc)) =
    some (.halted (.invalidOpcode 0xF001#16), 0x200#16) := by decide
/-- VF7. -/
theorem test_step_unknown_skips :
    (after (step (withConfig (fetching 0xFFFF) { Config.default with invalidOpcodePolicy := .skip }))
      fun t => (t.runState, t.lastError, t.pc)) =
      some (.running, some (.invalidOpcode 0xFFFF#16), 0x202#16) := by decide
/-- VF8. -/
theorem test_step_halted : (after (step (State.reset.raise .stackUnderflow)) id) =
    some (State.reset.raise .stackUnderflow) := by decide
/-- VK7, VK8: the wait changes nothing without a key and completes with one. -/
theorem test_step_waits : (after (step (State.reset.setRunState (.waitingForKey 2#4))) id) =
    some (State.reset.setRunState (.waitingForKey 2#4)) := by decide
theorem test_step_wait_completes :
    (after (step (((State.reset.setPc 0x240#16).setRunState (.waitingForKey 2#4)).setKey 0xC#4 true))
      fun t => (t.reg 2#4, t.pc, t.runState)) = some (0x0C#8, 0x242#16, .running) := by decide
/-- R36, R48: the glyph of A, and zero after the font. -/
theorem test_reset_font : State.reset.readBytes 0x032 5 = [0xF0#8, 0x90#8, 0xF0#8, 0x90#8, 0x90#8] ∧
    State.reset.readByte 0x04F = 0x80#8 ∧ State.reset.readByte 0x050 = 0x00#8 := by decide
/-- R36: the 16 glyphs are pairwise distinct. -/
theorem test_font_distinct : ((List.range 16).map fun d => State.reset.readBytes (5 * d) 5).Nodup := by decide
/-- Writing what an unlisted address reads as removes the entry. -/
theorem test_memory_canonical : ((State.reset.storeByte 0x300 0x12#8).storeByte 0x300 0x00#8).mem = [] := by decide

/-! ### Control transfer (VC1–VC11) -/

theorem test_sys : (after (exec (.sys 0xABC#12) (State.reset.setPc 0x400#16)) fun t => t.pc) = some 0x402#16 := by decide
theorem test_ret : (after (exec .ret (State.reset.setStack [0x30A#16, 0x202#16])) fun t => (t.pc, t.depth, t.stackAt 0)) =
    some (0x30A#16, 1, some 0x202#16) := by decide
theorem test_ret_underflow : (after (exec .ret (State.reset.setPc 0x204#16)) fun t => (t.runState, t.pc)) =
    some (.halted .stackUnderflow, 0x204#16) := by decide
theorem test_jp : (after (exec (.jp 0xABC#12) State.reset) fun t => t.pc) = some 0xABC#16 := by decide
theorem test_call_at_FFE : (after (exec (.call 0x300#12) (State.reset.setPc 0xFFE#16)) fun t => (t.stackAt 0, t.pc)) =
    some (some 0x1000#16, 0x300#16) := by decide
theorem test_call_overflow :
    (after (exec (.call 0x456#12) ((State.reset.setStack (List.replicate 16 0x202#16)).setPc 0x300#16))
      fun t => (t.runState, t.depth, t.pc)) = some (.halted .stackOverflow, 16, 0x300#16) := by decide
theorem test_jpV0 : (after (exec (.jpV0 0xFFF#12) (State.reset.setReg 0#4 0xFF#8)) fun t => t.pc) = some 0x10FE#16 := by
  decide
theorem test_jpV0_uses_vx :
    (after (exec (.jpV0 0x220#12) (withConfig (regs2 0#4 0x10#8 2#4 0x05#8)
      { Config.default with jumpOffsetUsesVx := true })) fun t => t.pc) = some 0x225#16 := by decide

/-! ### Skips (VS1–VS11) -/

theorem test_seImm : (after (exec (.seImm 3#4 0x42#8) (State.reset.setReg 3#4 0x42#8)) fun t => t.pc) = some 0x204#16 := by
  decide
theorem test_seImm_past_end : (after (exec (.seImm 0#4 0x00#8) (State.reset.setPc 0xFFC#16)) fun t => t.pc) =
    some 0x1000#16 := by decide
theorem test_sneImm : (after (exec (.sneImm 3#4 0x42#8) (State.reset.setReg 3#4 0x41#8)) fun t => t.pc) = some 0x204#16 := by
  decide
theorem test_sneImm_not : (after (exec (.sneImm 3#4 0x42#8) (State.reset.setReg 3#4 0x42#8)) fun t => t.pc) =
    some 0x202#16 := by decide
theorem test_seReg : (after (exec (.seReg 1#4 2#4) (regs2 1#4 7#8 2#4 7#8)) fun t => t.pc) = some 0x204#16 := by decide
theorem test_sneReg : (after (exec (.sneReg 1#4 2#4) (regs2 1#4 7#8 2#4 8#8)) fun t => t.pc) = some 0x204#16 := by decide
theorem test_sneReg_same : (after (exec (.sneReg 5#4 5#4) State.reset) fun t => t.pc) = some 0x202#16 := by decide

/-! ### Arithmetic and logic (VA1–VA32) -/

theorem test_ldImm : (after (exec (.ldImm 0xA#4 0x5B#8) State.reset) fun t => (t.reg 0xA#4, t.pc)) =
    some (0x5B#8, 0x202#16) := by decide
theorem test_addImm_no_flag : (after (exec (.addImm 1#4 0x01#8) (regs2 1#4 0xFF#8 0xF#4 0x55#8))
    fun t => (t.reg 1#4, t.reg 0xF#4)) = some (0x00#8, 0x55#8) := by decide
theorem test_addImm_vf : (after (exec (.addImm 0xF#4 0x05#8) (State.reset.setReg 0xF#4 0x10#8)) fun t => t.reg 0xF#4) =
    some 0x15#8 := by decide
theorem test_ldReg : (after (exec (.ldReg 1#4 2#4) (State.reset.setReg 2#4 0x33#8)) fun t => t.reg 1#4) = some 0x33#8 := by
  decide
theorem test_or : (after (exec (.or 1#4 2#4) ((regs2 1#4 0x0F#8 2#4 0xF0#8).setReg 0xF#4 7#8))
    fun t => (t.reg 1#4, t.reg 0xF#4)) = some (0xFF#8, 0x07#8) := by decide
theorem test_or_vf_reset : (after (exec (.or 1#4 2#4) (withConfig ((regs2 1#4 0x0F#8 2#4 0xF0#8).setReg 0xF#4 7#8)
    { Config.default with vfResetOnLogic := true })) fun t => (t.reg 1#4, t.reg 0xF#4)) = some (0xFF#8, 0x00#8) := by decide
theorem test_and : (after (exec (.and 1#4 2#4) (regs2 1#4 0x3C#8 2#4 0x0F#8)) fun t => t.reg 1#4) = some 0x0C#8 := by decide
theorem test_xor : (after (exec (.xor 1#4 2#4) (regs2 1#4 0xFF#8 2#4 0x0F#8)) fun t => t.reg 1#4) = some 0xF0#8 := by decide
theorem test_xor_self : (after (exec (.xor 1#4 1#4) (State.reset.setReg 1#4 0x5A#8)) fun t => t.reg 1#4) = some 0#8 := by
  decide
theorem test_addReg : (after (exec (.addReg 1#4 2#4) (regs2 1#4 0xC8#8 2#4 0x64#8)) fun t => (t.reg 1#4, t.reg 0xF#4)) =
    some (0x2C#8, 1#8) := by decide
/-- VA12: the flag wins when x = F. -/
theorem test_addReg_vf : (after (exec (.addReg 0xF#4 1#4) (regs2 0xF#4 0xFF#8 1#4 0x01#8)) fun t => t.reg 0xF#4) =
    some 1#8 := by decide
theorem test_sub : (after (exec (.sub 1#4 2#4) (regs2 1#4 3#8 2#4 5#8)) fun t => (t.reg 1#4, t.reg 0xF#4)) =
    some (0xFE#8, 0#8) := by decide
theorem test_sub_equal : (after (exec (.sub 1#4 1#4) (State.reset.setReg 1#4 0x77#8)) fun t => (t.reg 1#4, t.reg 0xF#4)) =
    some (0x00#8, 1#8) := by decide
theorem test_shr : (after (exec (.shr 1#4 0#4) (State.reset.setReg 1#4 5#8)) fun t => (t.reg 1#4, t.reg 0xF#4)) =
    some (2#8, 1#8) := by decide
/-- VA20. -/
theorem test_shr_uses_vy : (after (exec (.shr 1#4 2#4) (withConfig (regs2 1#4 0#8 2#4 3#8)
    { Config.default with shiftUsesVy := true })) fun t => (t.reg 1#4, t.reg 0xF#4)) = some (1#8, 1#8) := by decide
theorem test_subn : (after (exec (.subn 1#4 2#4) (regs2 1#4 3#8 2#4 5#8)) fun t => (t.reg 1#4, t.reg 0xF#4)) =
    some (2#8, 1#8) := by decide
theorem test_subn_borrow : (after (exec (.subn 1#4 2#4) (regs2 1#4 5#8 2#4 3#8)) fun t => (t.reg 1#4, t.reg 0xF#4)) =
    some (0xFE#8, 0#8) := by decide
theorem test_shl : (after (exec (.shl 1#4 0#4) (State.reset.setReg 1#4 0x81#8)) fun t => (t.reg 1#4, t.reg 0xF#4)) =
    some (2#8, 1#8) := by decide
theorem test_shl_vf : (after (exec (.shl 0xF#4 0#4) (State.reset.setReg 0xF#4 0x80#8)) fun t => t.reg 0xF#4) = some 1#8 := by
  decide
/-- VA31: masked with 0 the draw leaves 0, whatever it is. -/
theorem test_rnd_masked : (after (exec (.rnd 0#4 0x00#8) State.reset) fun t => (t.reg 0#4, t.draws)) = some (0#8, 1) := by
  simp [after, exec, execRnd, State.advance, State.setPc, State.setReg, State.countDraw, State.reset, State.resetWith,
    State.reg]

/-! ### Index and memory (VI1–VI21) -/

theorem test_ldI : (after (exec (.ldI 0x2F0#12) State.reset) fun t => t.i) = some 0x2F0#16 := by decide
theorem test_addI : (after (exec (.addI 1#4) ((regs2 1#4 0x01#8 0xF#4 0x33#8).setI 0xFFF#16))
    fun t => (t.i, t.reg 0xF#4)) = some (0x1000#16, 0x33#8) := by decide
theorem test_addI_wraps : (after (exec (.addI 1#4) ((State.reset.setReg 1#4 2#8).setI 0xFFFF#16)) fun t => t.i) =
    some 1#16 := by decide
theorem test_ldF : (after (exec (.ldF 0#4) (State.reset.setReg 0#4 0x0F#8)) fun t => (t.i, t.refused)) =
    some (0x04B#16, none) := by decide
theorem test_ldF_refused : (after (exec (.ldF 0#4) (State.reset.setReg 0#4 0x10#8)) fun t => (t.i, t.pc, t.refused)) =
    some (0#16, 0x200#16, some (.fontDigitOutOfRange 0x10#8)) := by decide
/-- E4. -/
theorem test_ldB : (after (exec (.ldB 0#4) ((State.reset.setReg 0#4 157#8).setI 0x300#16)) fun t => t.readBytes 0x300 3) =
    some [1#8, 5#8, 7#8] := by decide
/-- VI13. -/
theorem test_ldB_reserved : (after (exec (.ldB 0#4) (State.reset.setI 0x1FF#16)) fun t => (t.runState, t.mem)) =
    some (.halted (.outOfBoundsMemoryAccess 0x1FF#16), []) := by decide
theorem test_ldMemRegs : (after (exec (.ldMemRegs 2#4) (((regs2 0#4 1#8 1#4 2#8).setReg 2#4 3#8).setI 0x300#16))
    fun t => (t.readBytes 0x300 4, t.i)) = some ([1#8, 2#8, 3#8, 0#8], 0x300#16) := by decide
/-- VI15. -/
theorem test_ldMemRegs_past_end : (after (exec (.ldMemRegs 0xF#4) (State.reset.setI 0xFF8#16)) fun t => (t.runState, t.mem)) =
    some (.halted (.outOfBoundsMemoryAccess 0x1000#16), []) := by decide
/-- VI18. -/
theorem test_ldRegsMem_font : (after (exec (.ldRegsMem 4#4) State.reset)
    fun t => [t.reg 0#4, t.reg 1#4, t.reg 2#4, t.reg 3#4, t.reg 4#4, t.reg 5#4]) =
      some [0xF0#8, 0x90#8, 0x90#8, 0x90#8, 0xF0#8, 0x00#8] := by decide
/-- VI17's configuration, on the load. -/
theorem test_ldRegsMem_increments : (after (exec (.ldRegsMem 2#4) (withConfig (State.reset.setI 0x300#16)
    { Config.default with loadStoreIncrementsI := true })) fun t => t.i) = some 0x303#16 := by decide

/-! ### Display (VD1–VD10) -/

/-- The reset state with a sprite at 0x300, I there, and coordinates in V0 and V1. -/
def drawing (sprite : List Byte) (px py : Byte) : State :=
  ((regs2 0#4 px 1#4 py).storeBytes 0x300 sprite).setI 0x300#16

theorem test_cls : (after (exec .cls (State.reset.setFb (State.reset.fb.flip 3 7))) fun t => t.fb.pixel 3 7) = some false := by
  decide
/-- VD5: columns wrap. -/
theorem test_drw_wraps : (after (exec (.drw 0#4 1#4 1#4) (drawing [0xC0#8] 63#8 0#8))
    fun t => (t.fb.pixel 0 63, t.fb.pixel 0 0, t.fb.pixel 0 1, t.reg 0xF#4)) = some (true, true, false, 0#8) := by decide
/-- VD8: a pixel that goes from 1 to 0 collides. -/
theorem test_drw_collides : (after (exec (.drw 0#4 1#4 1#4)
    ((drawing [0xC0#8] 0#8 0#8).setFb (State.reset.fb.flip 0 0)))
      fun t => (t.fb.pixel 0 0, t.fb.pixel 0 1, t.reg 0xF#4)) = some (false, true, 1#8) := by decide

/-! ### Keypad and timers (VK1–VK13, VT1–VT3) -/

theorem test_skp : (after (exec (.skp 5#4) ((State.reset.setReg 5#4 0x0A#8).setKey 0xA#4 true)) fun t => t.pc) =
    some 0x204#16 := by decide
theorem test_skp_refused : (after (exec (.skp 5#4) (State.reset.setReg 5#4 0x10#8)) fun t => (t.refused, t.pc)) =
    some (some (.keyOutOfRange 0x10#8), 0x200#16) := by decide
theorem test_sknp : (after (exec (.sknp 5#4) (State.reset.setReg 5#4 0x0A#8)) fun t => t.pc) = some 0x204#16 := by decide
theorem test_ldVxDt : (after (exec (.ldVxDt 3#4) (State.reset.setDt 0x3C#8)) fun t => t.reg 3#4) = some 0x3C#8 := by decide
/-- VK5. -/
theorem test_ldVxK_lowest : (after (exec (.ldVxK 2#4) ((State.reset.setKey 3#4 true).setKey 8#4 true))
    fun t => (t.reg 2#4, t.pc)) = some (3#8, 0x202#16) := by decide
/-- VK6. -/
theorem test_ldVxK_waits : (after (exec (.ldVxK 2#4) State.reset) fun t => (t.runState, t.pc)) =
    some (.waitingForKey 2#4, 0x200#16) := by decide
theorem test_ldDt : (after (exec (.ldDt 1#4) (State.reset.setReg 1#4 0xC8#8)) fun t => t.dt) = some 200#8 := by decide
theorem test_ldSt : (after (exec (.ldSt 1#4) (State.reset.setReg 1#4 5#8)) fun t => (t.st, t.isSoundActive)) =
    some (5#8, true) := by decide
/-- VF9, VT2: Tick in a halted state; a timer at 0 stays. -/
theorem test_tick : (after (perform .tick (((State.reset.setDt 5#8).setSt 0#8).raise .stackUnderflow))
    fun t => (t.dt, t.st, t.runState)) = some (4#8, 0#8, .halted .stackUnderflow) := by decide

/-! ### Host transactions (VH2, VH4) -/

theorem test_load_too_large : (after (perform (.loadProgram (List.replicate 3585 1#8)) State.reset)
    fun t => (t.runState, t.mem)) = some (.halted (.programTooLarge 3585), []) := by
  rw [perform, State.loadProgram, if_pos (by rw [List.length_replicate]; decide), List.length_replicate]; rfl
theorem test_key_event : (after (perform (.submitKeyEvent 4#4 true) State.reset) fun t => (t.isPressed 4#4, t.isPressed 5#4)) =
    some (true, false) := by decide
/-- R251: a load has a move only after a Reset and before the first Cycle. -/
theorem test_duty :
    (runSchedule [.cycle, .loadProgram [0x12#8]] (System.constructed Config.default)).isSome = false ∧
    (runSchedule [.cycle, .reset, .tick, .loadProgram [0x12#8]] (System.constructed Config.default)).map
      (fun y => y.core.readByte 0x200) = some 0x12#8 := by decide

/-! ### Witnesses: the hypotheses of each statement can be met, clause by clause -/

/-- A state of a run that is not the reset state and meets the invariant. -/
theorem inv_after_one_instruction : Inv (State.reset.setPc 0x202#16) :=
  ⟨rfl, fun _ _ => rfl, Nat.zero_le _, fun _ h => absurd h List.not_mem_nil, (by decide : (0x202#16).toNat ≤ 0x10FE), rfl⟩

theorem witness_DecodeOfEncodedBytes :
    (Instr.sys 0xFFF#12).wf true = true ∧ (Instr.drw 0xF#4 0#4 0xF#4).wf false = true ∧ (Instr.subn 0#4 0xF#4).wf true = true := by
  decide
theorem witness_EncodeOfDecodedWord : decodeWord true 0xFFFF#16 ≠ decodeWord true 0xFF65#16 ∧
    decodeWord true 0xFF65#16 = .ok (.ldRegsMem 0xF#4) ∧ decodeWord false 0x00EE#16 = .ok .ret := by decide
theorem witness_UnknownSpaceIsExactlyListed_in :
    unknownWord true 0x5001#16 ∧ unknownWord true 0x800F#16 ∧ unknownWord true 0x9FFF#16 ∧ unknownWord true 0xE09F#16 ∧
    unknownWord true 0xFFFF#16 ∧ unknownWord false 0x0000#16 ∧ unknownWord false 0x8007#16 := by
  refine ⟨?_, ?_, ?_, ?_, ?_, ?_, ?_⟩ <;> unfold unknownWord <;> decide
theorem witness_UnknownSpaceIsExactlyListed_out :
    ¬ unknownWord true 0x0000#16 ∧ ¬ unknownWord true 0x8007#16 ∧ ¬ unknownWord false 0x00E0#16 := by
  refine ⟨?_, ?_, ?_⟩ <;> unfold unknownWord <;> decide
theorem witness_StepRunsDecodedInstruction : (fetching 0x1234).executes ∧
    decodeWord (fetching 0x1234).config.canonicalExtras (fetching 0x1234).fetchWord = .ok (.jp 0x234#12) := by decide
theorem witness_StepLeavesHaltedAndRefused : (State.reset.refuse (.keyOutOfRange 0x10#8)).refused ≠ none ∧
    (State.reset.raise .stackOverflow).runState = .halted .stackOverflow := by decide
theorem witness_StepCompletesKeyWait :
    (State.reset.setRunState (.waitingForKey 0xF#4)).refused = none ∧
    (State.reset.setRunState (.waitingForKey 0xF#4)).runState = .waitingForKey 0xF#4 ∧
    (State.reset.setRunState (.waitingForKey 0xF#4)).fetchable ∧
    (∀ k, (State.reset.setRunState (.waitingForKey 0xF#4)).isPressed k = false) ∧
    ((State.reset.setRunState (.waitingForKey 0xF#4)).setKey 0xF#4 true).isPressed 0xF#4 = true := by decide
/-- All sixteen keys down, with a choice function other than the default: whatever it answers is pressed. -/
theorem witness_other_key_choice (name : Nat) :
    (withConfig { State.reset with key := Vector.replicate 16 true }
      { Config.default with keyChoice := .other name }).isPressed
        (Config.keyFunction name (Vector.replicate 16 true)) = true := by
  simp [withConfig, State.isPressed]
theorem witness_StepRaisesFetchFault :
    State.reset.refused = none ∧ State.reset.runState = .running ∧
    0x1000 ≤ (State.reset.setPc 0x1000#16).pc.toNat ∧ 0x1000 ≤ (State.reset.setPc 0xFFFF#16).pc.toNat ∧
    (State.reset.setPc 0xFFF#16).pc.toNat = 0xFFF := by decide
theorem witness_StepOnUnknownWord :
    (fetching 0xE000).executes ∧ unknownWord (fetching 0xE000).config.canonicalExtras (fetching 0xE000).fetchWord ∧
    (fetching 0xE000).config.invalidOpcodePolicy = .halt ∧
    (withConfig (fetching 0xE000) { Config.default with invalidOpcodePolicy := .skip }).config.invalidOpcodePolicy = .skip := by
  unfold unknownWord; decide
theorem witness_StepKeepsInvariant : Inv (State.reset.setPc 0x202#16) ∧
    step (State.reset.setPc 0x202#16) = .next (State.reset.setPc 0x204#16) := ⟨inv_after_one_instruction, rfl⟩
theorem witness_SchedulesKeepInvariant : Inv (State.reset.setPc 0x202#16) ∧
    runSchedule [.tick, .submitKeyEvent 1#4 true, .reset] ⟨State.reset.setPc 0x202#16, false⟩ =
      some (System.constructed Config.default) :=
  ⟨inv_after_one_instruction, rfl⟩
/-- A step that writes memory, at the lowest address it may write. -/
theorem witness_ReservedRegionNeverOverwritten :
    (after (step (((fetching 0xF033).setReg 0#4 9#8).setI 0x210#16)) fun t => t.readByte 0x212) = some 9#8 := by decide
theorem witness_RaisedErrorsChangeNothingElse : State.reset.runState = .running ∧
    exec .ret State.reset = .next (State.reset.raise .stackUnderflow) := ⟨rfl, rfl⟩
/-- Without a load, and with a load that the duty allows in Halted(ProgramTooLarge). -/
theorem witness_HaltedIsTerminalUntilReset : (State.reset.raise .stackUnderflow).runState = .halted .stackUnderflow ∧
    (.reset ∉ [Transaction.cycle, .tick, .submitKeyEvent 1#4 true, .inspectState]) ∧
    (runSchedule [.tick, .loadProgram [0x12#8]] ⟨State.reset.raise (.programTooLarge 3585), true⟩).map
      (fun z => (z.core.runState, z.core.readByte 0x200)) = some (.halted (.programTooLarge 3585), 0x12#8) := by decide
theorem witness_OnlyTimerLoadsWriteTimers :
    exec (.ldDt 0#4) State.reset = .next (State.reset.setDt 0#8).advance ∧
    exec (.ldSt 0#4) State.reset = .next (State.reset.setSt 0#8).advance := ⟨rfl, rfl⟩
theorem witness_StatePartsHaveOnlyTheirWriters :
    exec .cls State.reset = .next (State.reset.setFb Framebuffer.clear).advance := rfl
theorem witness_PcMovesOnlyAsAllowed : State.reset.executes ∧
    (State.reset.setPc 0xFFE#16).executes ∧ exec (.sys 0#12) State.reset = .next State.reset.advance :=
  ⟨by decide, by decide, rfl⟩
theorem witness_StepsDoNotReadSoundTimer : step State.reset = .next State.reset.advance := rfl
theorem witness_KeypadReadOnlyByKeyInstructions : readsKeypad (.jp 0#12) = false ∧
    exec (.jp 0#12) State.reset = .next (State.reset.setPc 0#16) := ⟨rfl, rfl⟩
theorem witness_RefusalMarkOnlyOutOfRange :
    (after (exec (.ldF 0#4) (State.reset.setReg 0#4 0x10#8)) fun t => t.refused) ≠ some State.reset.refused ∧
    (after (exec (.sknp 0#4) (State.reset.setReg 0#4 0xFF#8)) fun t => t.refused) ≠ some State.reset.refused := by decide
theorem witness_SchedulesKeepConfiguration :
    runSchedule [.cycle, .reset] (System.constructed Config.default) = some (System.constructed Config.default) := rfl
/-- Every statement about an instruction that only needs a fetchable pc, at both ends of memory. -/
theorem witness_fetchable : State.reset.fetchable ∧ (State.reset.setPc 0x000#16).fetchable ∧
    (State.reset.setPc 0xFFE#16).fetchable ∧ ¬ (State.reset.setPc 0xFFF#16).fetchable := by decide
theorem witness_RetPopsOrUnderflows : (State.reset.setStack [0x1000#16]).stack = 0x1000#16 :: [] ∧
    State.reset.depth = 0 := ⟨rfl, rfl⟩
theorem witness_CallPushesOrOverflows : State.reset.depth < 16 ∧
    (State.reset.setStack (List.replicate 15 0x202#16)).depth < 16 ∧
    16 ≤ (State.reset.setStack (List.replicate 16 0x202#16)).depth ∧ State.reset.fetchable := by decide
theorem witness_CallThenRetReturnsAfterCall : (State.reset.setPc 0xFFE#16).fetchable ∧
    (State.reset.setPc 0xFFE#16).depth < 16 := by decide
theorem witness_JpV0AddsOffset : State.reset.config.jumpOffsetUsesVx = false ∧
    (withConfig State.reset { Config.default with jumpOffsetUsesVx := true }).config.jumpOffsetUsesVx = true := ⟨rfl, rfl⟩
theorem witness_LogicOpsCombineBits : State.reset.config.vfResetOnLogic = false ∧
    (withConfig State.reset { Config.default with vfResetOnLogic := true }).config.vfResetOnLogic = true ∧
    State.reset.fetchable := by decide
theorem witness_ShiftsByOne : State.reset.fetchable ∧ (0#8 : Byte) = (if State.reset.config.shiftUsesVy = true then
    State.reset.reg 2#4 else State.reset.reg 1#4) := by decide
theorem witness_LdFPointsAtGlyph : ((State.reset.setReg 0#4 0xF#8).reg 0#4).toNat ≤ 0xF ∧ State.reset.reservedIntact ∧
    0xF < ((State.reset.setReg 0#4 0x10#8).reg 0#4).toNat ∧ 5 * 0xF + 4 < 80 := ⟨by decide, fun _ _ => rfl, by decide, by decide⟩
theorem witness_LdBStoresDigits : (State.reset.setI 0xFFD#16).fetchable ∧ (State.reset.setI 0xFFD#16).blockWritable 3 ∧
    (State.reset.setI 0x200#16).blockWritable 3 ∧ Memory.wf State.reset.config.font State.reset.mem = true := by decide
theorem witness_block_stores : (State.reset.setI 0xFF0#16).blockWritable ((0xF#4 : Nibble).toNat + 1) ∧
    (State.reset.setI 0x200#16).blockWritable ((0#4 : Nibble).toNat + 1) ∧
    (withConfig State.reset { Config.default with loadStoreIncrementsI := true }).config.loadStoreIncrementsI = true ∧
    State.reset.fetchable ∧ Memory.wf State.reset.config.font State.reset.mem = true := by decide
theorem witness_LdRegsMemLoadsRegisters : (State.reset.setI 0x000#16).blockInside ((0xF#4 : Nibble).toNat + 1) ∧
    (State.reset.setI 0xFFF#16).blockInside ((0#4 : Nibble).toNat + 1) ∧
    ∀ k : Nibble, k ∈ [0#4, 1#4, 2#4] ↔ k.toNat ≤ (2#4 : Nibble).toNat := by decide
theorem witness_BlockAccessFaults :
    (0x1000#16).toNat = max (State.reset.setI 0xFFE#16).i.toNat 0x1000 ∧ 0x1000 < (State.reset.setI 0xFFE#16).i.toNat + 3 ∧
    (0xFFFF#16).toNat = max (State.reset.setI 0xFFFF#16).i.toNat 0x1000 ∧
    0x1000 < (State.reset.setI 0xFF1#16).i.toNat + (0xF#4 : Nibble).toNat + 1 ∧
    (State.reset.setI 0x1FF#16).i.toNat < 0x200 ∧ 1 ≤ (1#4 : Nibble).toNat ∧
    0x1000 < (State.reset.setI 0x1000#16).i.toNat + (1#4 : Nibble).toNat := by decide
/-- The state the later instruction starts from may be the one the earlier instruction left. -/
theorem witness_DumpThenLoadRestoresRegisters :
    (after (exec (.ldMemRegs 1#4) (State.reset.setI 0x300#16)) fun t => t.i) = some (State.reset.setI 0x300#16).i := by decide
/-- One stored byte (x = 0) at the end of memory is the low byte of the fetch at 0xFFE; the three digits may lie at the start
of the program. -/
theorem witness_StoredBytesAreFetched : (State.reset.setI 0xFFF#16).blockWritable ((0#4 : Nibble).toNat + 1) ∧
    (State.reset.setPc 0xFFE#16).pc.toNat + 1 = (State.reset.setI 0xFFF#16).i.toNat + (0#4 : Nibble).toNat ∧
    (State.reset.setI 0x200#16).blockWritable 3 ∧ State.reset.pc.toNat = (State.reset.setI 0x200#16).i.toNat + 0 ∧
    State.reset.fetchable ∧ Memory.wf State.reset.config.font State.reset.mem = true := by decide
theorem witness_DrwXorsSprite : (State.reset.setI 0xFF1#16).blockInside (0xF#4 : Nibble).toNat ∧
    (0#4 : Nibble).toNat = 0 ∧ State.reset.fetchable ∧
    (drawing [0x80#8] 0#8 0#8).spriteCovers 0#4 1#4 1#4 0 0 := ⟨by decide, rfl, by decide, 0, 0, by decide⟩
/-- The second draw's premises hold of the state after the first. -/
theorem witness_DrwTwiceRestoresFramebuffer :
    (after (exec (.drw 0#4 1#4 1#4) (drawing [0xC0#8] 5#8 6#8)) fun t => (t.i, t.reg 0#4, t.reg 1#4, t.mem)) =
      some ((drawing [0xC0#8] 5#8 6#8).i, 5#8, 6#8, (drawing [0xC0#8] 5#8 6#8).mem) := by decide
theorem witness_KeySkipsReadOneKey : ((State.reset.setReg 5#4 0xF#8).reg 5#4).toNat = (0xF#4 : Nibble).toNat ∧
    0xF < ((State.reset.setReg 5#4 0x10#8).reg 5#4).toNat ∧ State.reset.fetchable := by decide
theorem witness_LdVxKStoresOrWaits : (State.reset.setKey 0xF#4 true).isPressed 0xF#4 = true ∧
    (∀ k, State.reset.isPressed k = false) ∧ State.reset.config.keyChoice = .lowest := by decide
theorem witness_TickDecrementsTimers : 0 < (State.reset.setDt 1#8).dt.toNat ∧ State.reset.dt.toNat = 0 ∧
    0 < (State.reset.setSt 255#8).st.toNat ∧ State.reset.st.toNat = 0 := by decide
theorem witness_TicksSubtractFromTimers :
    ∀ r ∈ [Transaction.tick, .submitKeyEvent 0#4 true, .tick, .isSoundActive], r.isQuiet = true := by decide
theorem witness_LoadProgramCopiesOrHaltsOrHasNoMove : (System.constructed Config.default).fresh = true ∧
    (transact .cycle (System.constructed Config.default)).map System.fresh = some false ∧ 0x200 + (List.replicate 3584 1#8).length ≤ 0x1000 ∧
    0x1000 < 0x200 + (List.replicate 3585 1#8).length ∧ Memory.wf State.reset.config.font State.reset.mem = true := by
  refine ⟨rfl, rfl, ?_⟩; simp only [List.length_replicate]; decide
theorem witness_SelfJumpIsIdle : (fetching 0x1200).idleEnd := ⟨by decide, 0x200#12, by decide⟩

end Sys2Proof.Tests
end

/-! Proofs of the statements about the state (10_state.md): what the reset state holds, which instructions write each of its
parts, how pc moves, and what no instruction reads. -/

namespace Sys2Proof.Machine

/-! ### The reset state (R48) -/

section ResetState
variable (c : Config)

theorem Memory.base_of_lt (font : Font) {a : Nat} (h : a < 80) : Memory.base font a = font[a] := dif_pos h

theorem Memory.base_of_ge (font : Font) {a : Nat} (h : 80 ≤ a) : Memory.base font a = 0x00#8 := dif_neg (Nat.not_lt.2 h)

@[simp] theorem State.resetWith_readByte (a : Nat) : (State.resetWith c).readByte a = Memory.base c.font a := rfl

@[simp] theorem State.resetWith_reg (x : Nibble) : (State.resetWith c).reg x = 0x00#8 := by
  simp [State.reg, State.resetWith]

@[simp] theorem State.resetWith_isPressed (k : Nibble) : (State.resetWith c).isPressed k = false := by
  simp [State.isPressed, State.resetWith]

@[simp] theorem State.resetWith_pixel (row : Fin 32) (col : Fin 64) : (State.resetWith c).fb.pixel row col = false := by
  simp [Framebuffer.pixel, State.resetWith]

theorem inv_resetWith : Inv (State.resetWith c) where
  memory := Memory.wf_nil c.font
  reserved _ _ := rfl
  depth := Nat.zero_le stackDepth
  entries _ h := (List.not_mem_nil h).elim
  pc := (by decide : 0x200 ≤ 0x10FE)
  runState := rfl

end ResetState

/-- Settles O13: the reset state is the reset state of the default configuration. -/
theorem resetStateValues : Obligations.ResetStateValues :=
  ⟨fun _ h => Memory.base_of_lt Font.default h, fun _ h => Memory.base_of_ge Font.default h,
    State.resetWith_reg Config.default, rfl, rfl, rfl, rfl, rfl, State.resetWith_pixel Config.default,
    State.resetWith_isPressed Config.default, rfl, rfl, rfl, rfl⟩

/-- Settles O15: the default configuration is one of those of which `inv_resetWith` speaks. -/
theorem resetStateMeetsInvariant : Obligations.ResetStateMeetsInvariant := ⟨inv_resetWith Config.default, inv_resetWith⟩

/-! ### Who writes what (R24, R28 to R32, R37, R39, R44) -/

/-- An instruction has its ordinary effect, or it stops (an error, a refusal, a key wait) and sets nothing but `state`,
`last_error` and the refusal mark. -/
theorem exec_ordinary_or_stops {i : Instr} {s t : State} (h : exec i s = .next t) :
    OrdinaryEffect i s t ∨ ∃ r e m, t = { s with runState := r, lastError := e, refused := m } := by
  rcases exec_outcomes h with ⟨e, rfl⟩ | ⟨x, -, -, rfl⟩ | ⟨x, -, -, rfl⟩ | ⟨x, -, rfl⟩ | ho
  · exact .inr ⟨_, _, _, rfl⟩
  · exact .inr ⟨_, _, _, rfl⟩
  · exact .inr ⟨_, _, _, rfl⟩
  · exact .inr ⟨_, _, _, rfl⟩
  · exact .inl ho

/-- Settles O21: an ordinary effect writes a timer only by its load, and a stop writes none. -/
theorem onlyTimerLoadsWriteTimers : Obligations.OnlyTimerLoadsWriteTimers := by
  intro i s t h
  rcases exec_ordinary_or_stops h with ho | ⟨r, e, m, rfl⟩
  · exact ⟨ho.dt, ho.st⟩
  · exact ⟨.inl rfl, .inl rfl⟩

/-- Settles O22: an ordinary effect writes each part only by its writers, and a stop writes none of these parts. -/
theorem statePartsHaveOnlyTheirWriters : Obligations.StatePartsHaveOnlyTheirWriters := by
  intro i s t h
  rcases exec_ordinary_or_stops h with ho | ⟨r, e, m, rfl⟩
  · exact ⟨ho.fb, ho.stack, ho.index, ho.memory, ho.draws, ho.key, ho.config⟩
  · exact ⟨.inl rfl, .inl rfl, .inl rfl, .inl fun _ => rfl, .inl rfl, rfl, rfl⟩

/-! ### The program counter (R26) -/

/-- Settles O23: the sums of an ordinary effect are exact where the word at pc can be fetched, and a stop keeps pc. -/
theorem pcMovesOnlyAsAllowed : Obligations.PcMovesOnlyAsAllowed := by
  intro i s t ⟨_, _, hpc⟩ h
  rcases exec_outcomes h with ⟨e, rfl⟩ | ⟨x, -, -, rfl⟩ | ⟨x, -, -, rfl⟩ | ⟨x, rfl, rfl⟩ | ho
  · exact .inr (.inr (.inr ⟨rfl, .inl ⟨e, rfl⟩⟩))
  · exact .inr (.inr (.inr ⟨rfl, .inr (.inl (by simp))⟩))
  · exact .inr (.inr (.inr ⟨rfl, .inr (.inl (by simp))⟩))
  · exact .inr (.inr (.inr ⟨rfl, .inr (.inr ⟨x, rfl, rfl⟩)⟩))
  · rcases ho.pc with h2 | ⟨h4, hskip⟩ | htransfer
    · exact .inl (h2 ▸ s.advance_pc_toNat hpc)
    · exact .inr (.inl ⟨h4 ▸ s.skipIf_pc_toNat true hpc, hskip⟩)
    · exact .inr (.inr (.inl htransfer))

/-! ### The configuration (R44) -/

theorem exec_config {i : Instr} {s t : State} (h : exec i s = .next t) : t.config = s.config := by
  rcases exec_ordinary_or_stops h with ho | ⟨r, e, m, rfl⟩
  · exact ho.config
  · rfl

theorem State.resumeKeyWait_config (s : State) (x : Nibble) : (s.resumeKeyWait x).config = s.config := by
  rcases s.resumeKeyWait_cases x with ⟨k, -, h⟩ | ⟨-, h⟩ <;> rw [h]; rfl

theorem State.invalidOpcode_config (s : State) (op : Word) : (s.invalidOpcode op).config = s.config := by
  rcases s.invalidOpcode_cases op with ⟨-, h⟩ | ⟨-, h⟩ <;> rw [h] <;> rfl

theorem State.loadProgram_config (s : State) (bytes : List Byte) : (s.loadProgram bytes).config = s.config := by
  rcases s.loadProgram_cases bytes with ⟨-, h⟩ | ⟨-, h⟩ <;> rw [h] <;> simp

theorem step_config {s t : State} (h : step s = .next t) : t.config = s.config := by
  rcases step_cases s with h' | ⟨-, x, -, h'⟩ | ⟨-, -, e, -, h'⟩ | ⟨-, -, -, i, -, h'⟩ | ⟨-, -, -, e, -, h'⟩ <;>
    rw [h'] at h
  · cases h; rfl
  · cases h; exact s.resumeKeyWait_config x
  · cases h; rfl
  · exact exec_config h
  · cases h; exact s.invalidOpcode_config s.fetchWord

theorem perform_config {t : Transaction} {s u : State} (h : perform t s = .next u) : u.config = s.config := by
  cases t with
  | cycle => exact step_config h
  | loadProgram bytes => cases h; exact s.loadProgram_config bytes
  | tick | reset | submitKeyEvent _ _ | framebufferSnapshot | isSoundActive | inspectState => cases h; rfl

/-- Settles O27: every move keeps the configuration, hence every schedule. -/
theorem schedulesKeepConfiguration : Obligations.SchedulesKeepConfiguration := by
  intro ts y z h
  refine runSchedule_keeps (P := fun w => w.core.config = y.core.config) ?_ rfl h
  intro t _ v w hv hmove
  obtain ⟨-, hperform, -⟩ := transact_eq_some.1 hmove
  exact (perform_config hperform).trans hv

/-! ### What no instruction reads (R29, R39)

One argument for both statements: with another ST and another keypad, an instruction that does not read the keypad does
the same, but for the ST and the keypad it leaves. -/

/-- `s` with another ST and another keypad. -/
def State.withStKey (s : State) (b : Byte) (ks : Vector Bool 16) : State := { s with st := b, key := ks }

/-- The ST that `i` leaves where it found `b`: LD ST alone writes it (R215). -/
def stAfter (i : Instr) (s : State) (b : Byte) : Byte :=
  match i with
  | .ldSt x => s.reg x
  | _ => b

/-- The outcome with its next state changed by `f`. -/
def mapNext (f : State → State) : Result → Result
  | .next s => .next (f s)
  | .fault r => .fault r
  | .refused r => .refused r

section StKey
variable (s : State) (b : Byte) (ks : Vector Bool 16)

theorem State.setSt_eq_withStKey : s.setSt b = s.withStKey b s.key := rfl

theorem State.setKey_eq_withStKey (k : Nibble) (p : Bool) :
    s.setKey k p = s.withStKey s.st (s.key.set k.toNat p k.isLt) := rfl

theorem State.withStKey_pc : (s.withStKey b ks).pc = s.pc := rfl

theorem State.storeBytes_withStKey (a : Nat) (bs : List Byte) :
    (s.withStKey b ks).storeBytes a bs = (s.storeBytes a bs).withStKey b ks := by
  induction bs generalizing s a with
  | nil => rfl
  | cons c bs ih => exact ih (s.storeByte a c) (a + 1)

theorem State.setLogicResult_withStKey (x : Nibble) (r : Byte) :
    (s.withStKey b ks).setLogicResult x r = (s.setLogicResult x r).withStKey b ks := by
  unfold State.setLogicResult
  rw [apply_ite (State.withStKey · b ks)]
  rfl

theorem State.skipIfKey_withStKey (x : Nibble) (p : Bool) :
    (s.withStKey b s.key).skipIfKey x p = (s.skipIfKey x p).withStKey b s.key := by
  unfold State.skipIfKey
  rw [apply_ite (State.withStKey · b s.key)]
  rfl

theorem State.checked_withStKey (kind : AccessKind) (m : Nat) {rest rest' : Result}
    (h : rest' = mapNext (State.withStKey · b ks) rest) :
    (s.withStKey b ks).checked kind m rest' = mapNext (State.withStKey · b ks) (s.checked kind m rest) := by
  rcases s.checked_cases kind m rest with ⟨e, he, hs⟩ | ⟨he, hs⟩ <;> rw [hs]
  · exact State.checked_of_some _ _ he
  · rw [← h]; exact State.checked_of_none _ _ he

theorem State.pop_withStKey :
    (s.withStKey b ks).pop = s.pop.map fun (a, t) => (a, t.withStKey b ks) := by
  simp only [State.pop, State.withStKey]
  cases s.stack <;> rfl

theorem State.push_withStKey (a : Word) : (s.withStKey b ks).push a = (s.push a).map (State.withStKey · b ks) := by
  unfold State.push
  rw [apply_ite (Option.map _)]
  rfl

theorem State.chooseKey_withStKey : (s.withStKey b s.key).chooseKey = s.chooseKey := rfl

/-- With another ST and, unless `i` reads the keypad, another keypad, `i` does the same but for the ST and the keypad it
leaves. -/
theorem exec_withStKey (i : Instr) (hi : ks = s.key ∨ readsKeypad i = false) :
    exec i (s.withStKey b ks) = mapNext (State.withStKey · (stAfter i s b) ks) (exec i s) := by
  cases i with
  | ret =>
    simp only [exec, execRet, State.pop_withStKey]
    cases s.pop <;> rfl
  | call nnn =>
    simp only [exec, execCall, State.push_withStKey, State.withStKey_pc]
    cases s.push (s.pc + 2#16) <;> rfl
  | or x y => exact congrArg (fun u => Host.Outcome.next u.advance) (s.setLogicResult_withStKey b ks x _)
  | and x y => exact congrArg (fun u => Host.Outcome.next u.advance) (s.setLogicResult_withStKey b ks x _)
  | xor x y => exact congrArg (fun u => Host.Outcome.next u.advance) (s.setLogicResult_withStKey b ks x _)
  | drw x y n => exact s.checked_withStKey b ks .read n.toNat rfl
  | ldRegsMem x => exact s.checked_withStKey b ks .read (x.toNat + 1) rfl
  | ldB x =>
    refine s.checked_withStKey b ks .write 3 ?_
    exact congrArg (fun u => Host.Outcome.next u.advance) (s.storeBytes_withStKey b ks _ _)
  | ldMemRegs x =>
    refine s.checked_withStKey b ks .write (x.toNat + 1) ?_
    exact congrArg (fun u => Host.Outcome.next (u.setI (s.blockIndex x)).advance) (s.storeBytes_withStKey b ks _ _)
  | ldF x =>
    simp only [exec, execLdF]
    rw [apply_ite (mapNext _)]
    rfl
  | skp x =>
    obtain rfl : ks = s.key := by simpa [readsKeypad] using hi
    exact congrArg Host.Outcome.next (s.skipIfKey_withStKey b x true)
  | sknp x =>
    obtain rfl : ks = s.key := by simpa [readsKeypad] using hi
    exact congrArg Host.Outcome.next (s.skipIfKey_withStKey b x false)
  | ldVxK x =>
    obtain rfl : ks = s.key := by simpa [readsKeypad] using hi
    simp only [exec, execLdVxK, State.chooseKey_withStKey]
    cases s.chooseKey <;> rfl
  | _ => rfl

end StKey

section ReadsNeither
variable {i : Instr} {s t : State} (h : exec i s = .next t)
include h

theorem exec_withStKey_eq_next (b : Byte) {ks : Vector Bool 16} (hi : ks = s.key ∨ readsKeypad i = false) :
    exec i (s.withStKey b ks) = .next (t.withStKey (stAfter i s b) ks) := by
  rw [exec_withStKey s b ks i hi, h]
  rfl

/-- The ST and the keypad an instruction leaves: the case of `exec_withStKey` that changes neither. -/
theorem exec_st_key : t.st = stAfter i s s.st ∧ t.key = s.key := by
  have same : t = t.withStKey (stAfter i s s.st) s.key :=
    Host.Outcome.next.inj (h.symm.trans (exec_withStKey_eq_next h s.st (.inl rfl)))
  exact ⟨by rw [same]; rfl, by rw [same]; rfl⟩

theorem exec_setSt (b : Byte) : exec i (s.setSt b) = .next (t.setSt (stAfter i s b)) := by
  obtain ⟨-, hkey⟩ := exec_st_key h
  rw [State.setSt_eq_withStKey, State.setSt_eq_withStKey, hkey]
  exact exec_withStKey_eq_next h b (.inl rfl)

theorem exec_setKey (k : Nibble) (p : Bool) (hi : readsKeypad i = false) :
    exec i (s.setKey k p) = .next (t.setKey k p) := by
  obtain ⟨hst, hkey⟩ := exec_st_key h
  rw [State.setKey_eq_withStKey, State.setKey_eq_withStKey, hst, hkey]
  exact exec_withStKey_eq_next h s.st (.inr hi)

end ReadsNeither

/-- Settles O25: the case of `exec_withStKey` that changes one key and leaves ST as it is. -/
theorem keypadReadOnlyByKeyInstructions : Obligations.KeypadReadOnlyByKeyInstructions :=
  fun _ _ _ k p hi h => exec_setKey h k p hi

section StepSt
variable (s : State) (b : Byte)

theorem State.chooseKey_setSt : (s.setSt b).chooseKey = s.chooseKey := rfl

theorem State.resumeKeyWait_setSt (x : Nibble) : (s.setSt b).resumeKeyWait x = (s.resumeKeyWait x).setSt b := by
  simp only [State.resumeKeyWait, State.chooseKey_setSt]
  cases s.chooseKey <;> rfl

theorem State.invalidOpcode_setSt (op : Word) : (s.setSt b).invalidOpcode op = (s.invalidOpcode op).setSt b := by
  simp only [State.invalidOpcode, State.setSt_config]
  cases s.config.invalidOpcodePolicy <;> rfl

theorem State.fetchWord_setSt : (s.setSt b).fetchWord = s.fetchWord := rfl

/-- Fetch and decoding do not read ST, and no branch after them does. -/
theorem State.fetchAndExecute_setSt {t : State} (h : s.fetchAndExecute = .next t) :
    ∃ b', (s.setSt b).fetchAndExecute = .next (t.setSt b') := by
  unfold State.fetchAndExecute at h ⊢
  rw [State.fetchWord_setSt, State.setSt_pc, State.setSt_config]
  cases hf : fetchError s.pc with
  | some e =>
    rw [hf] at h
    cases h
    exact ⟨b, rfl⟩
  | none =>
    rw [hf] at h
    cases hd : decodeWord s.config.canonicalExtras s.fetchWord with
    | ok i =>
      rw [hd] at h
      exact ⟨stAfter i s b, exec_setSt h b⟩
    | error e =>
      rw [hd] at h
      cases h
      exact ⟨b, congrArg Host.Outcome.next (s.invalidOpcode_setSt b _)⟩

end StepSt

/-- Settles O24: what a cycle does is chosen by the refusal mark and `state`, and each choice keeps ST out. -/
theorem stepsDoNotReadSoundTimer : Obligations.StepsDoNotReadSoundTimer := by
  intro s t b h
  unfold step State.cycle at h ⊢
  rw [State.setSt_refused, State.setSt_runState]
  by_cases hr : s.refused.isSome = true
  · rw [if_pos hr] at h ⊢
    cases h
    exact ⟨b, rfl⟩
  · rw [if_neg hr] at h ⊢
    cases hs : s.runState with
    | halted e =>
      rw [hs] at h
      cases h
      exact ⟨b, rfl⟩
    | waitingForKey x =>
      rw [hs] at h
      cases h
      exact ⟨b, congrArg Host.Outcome.next (s.resumeKeyWait_setSt b x)⟩
    | running =>
      rw [hs] at h
      exact s.fetchAndExecute_setSt b h

end Sys2Proof.Machine

/-! Proofs of the statements about memory (20_memory.md): the one way an instruction writes memory, the invariant that every
step keeps, the faults of the I-based accesses, and the fetch of stored bytes. -/

namespace Sys2Proof.Machine

/-! ### Writes to memory (R62) -/

/-- The memory of `t` is that of `s` after a store, of no byte or more, that lies outside the reserved region (R62). -/
def StoresAboveReserved (s t : State) : Prop :=
  ∃ a bs, reservedEnd ≤ a ∧ a + bs.length ≤ memSize ∧ t.mem = (s.storeBytes a bs).mem

section StoresAboveReserved
variable {s t : State}

theorem storesAboveReserved_of_mem_eq (h : t.mem = s.mem) : StoresAboveReserved s t :=
  ⟨reservedEnd, [], le_rfl, by decide, h⟩

theorem StoresAboveReserved.readByte_eq (h : StoresAboveReserved s t) (hc : t.config = s.config) {a : Nat}
    (ha : a < reservedEnd) : t.readByte a = s.readByte a := by
  obtain ⟨b, bs, hb, -, hmem⟩ := h
  calc t.readByte a
      _ = (s.storeBytes b bs).readByte a := by rw [State.readByte, State.readByte, hmem, hc, s.storeBytes_config]
      _ = s.readByte a := s.readByte_storeBytes_of_outside bs (.inl (ha.trans_le hb))

theorem StoresAboveReserved.wf (h : StoresAboveReserved s t) (hc : t.config = s.config)
    (hs : Memory.wf s.config.font s.mem = true) : Memory.wf t.config.font t.mem = true := by
  obtain ⟨b, bs, -, hlen, hmem⟩ := h
  rw [hmem, hc]
  exact s.wf_storeBytes bs hlen hs

theorem StoresAboveReserved.reservedIntact (h : StoresAboveReserved s t) (hc : t.config = s.config)
    (hs : s.reservedIntact) : t.reservedIntact := fun a ha => by
  rw [h.readByte_eq hc ha, hc]
  exact hs a ha

end StoresAboveReserved

@[simp] theorem length_bcdDigits (v : Byte) : (bcdDigits v).length = 3 := rfl

@[simp] theorem State.length_regsUpTo (s : State) (x : Nibble) : (s.regsUpTo x).length = x.toNat + 1 := by
  have := x.isLt
  simp only [State.regsUpTo, List.length_take, Vector.length_toList]
  omega

/-- LD B and LD [I] alone store to memory, and only where the access check lets them (R62, R173). -/
theorem exec_storesAboveReserved {i : Instr} {s t : State} (h : exec i s = .next t) : StoresAboveReserved s t := by
  have of_mem {u : State} (h' : exec i s = .next u) (hmem : u.mem = s.mem) : StoresAboveReserved s t :=
    storesAboveReserved_of_mem_eq (Host.Outcome.next.inj (h.symm.trans h') ▸ hmem)
  have of_store {u : State} {bs : List Byte} (h' : exec i s = .next u) (hI : reservedEnd ≤ s.i.toNat)
      (hlen : s.i.toNat + bs.length ≤ memSize) (hmem : u.mem = (s.storeBytes s.i.toNat bs).mem) :
      StoresAboveReserved s t :=
    ⟨s.i.toNat, bs, hI, hlen, Host.Outcome.next.inj (h.symm.trans h') ▸ hmem⟩
  cases i with
  | ldB x =>
    rcases execLdB_cases s x with ⟨hI, hlen, h'⟩ | ⟨e, -, h'⟩
    · exact of_store (bs := bcdDigits (s.reg x)) h' hI hlen rfl
    · exact of_mem h' rfl
  | ldMemRegs x =>
    rcases execLdMemRegs_cases s x with ⟨hI, hlen, h'⟩ | ⟨e, -, h'⟩
    · exact of_store h' hI (by rwa [s.length_regsUpTo]) rfl
    · exact of_mem h' rfl
  | ret => rcases execRet_cases s with ⟨a, l, -, h'⟩ | ⟨-, h'⟩ <;> exact of_mem h' rfl
  | call nnn => rcases execCall_cases s nnn with ⟨-, h'⟩ | ⟨-, h'⟩ <;> exact of_mem h' rfl
  | ldF x => rcases execLdF_cases s x with ⟨-, h'⟩ | ⟨-, h'⟩ <;> exact of_mem h' rfl
  | ldVxK x => rcases execLdVxK_cases s x with ⟨k, -, h'⟩ | ⟨-, h'⟩ <;> exact of_mem h' rfl
  | ldRegsMem x =>
    rcases execLdRegsMem_cases s x with ⟨-, h'⟩ | ⟨e, -, h'⟩
    · exact of_mem h' (by simp)
    · exact of_mem h' rfl
  | drw x y n =>
    rcases execDrw_cases s x y n with ⟨d, -, -, h'⟩ | ⟨e, -, h'⟩
    · exact of_mem h' rfl
    · exact of_mem h' rfl
  | skp x => exact of_mem rfl (by rcases s.skipIfKey_cases x true with ⟨-, h'⟩ | ⟨-, h'⟩ <;> rw [h'] <;> rfl)
  | sknp x => exact of_mem rfl (by rcases s.skipIfKey_cases x false with ⟨-, h'⟩ | ⟨-, h'⟩ <;> rw [h'] <;> rfl)
  | or x y => exact of_mem rfl (s.setLogicResult_mem x _)
  | and x y => exact of_mem rfl (s.setLogicResult_mem x _)
  | xor x y => exact of_mem rfl (s.setLogicResult_mem x _)
  | _ => exact of_mem rfl rfl

theorem State.resumeKeyWait_mem (s : State) (x : Nibble) : (s.resumeKeyWait x).mem = s.mem := by
  rcases s.resumeKeyWait_cases x with ⟨k, -, h⟩ | ⟨-, h⟩ <;> rw [h]; rfl

theorem State.invalidOpcode_mem (s : State) (op : Word) : (s.invalidOpcode op).mem = s.mem := by
  rcases s.invalidOpcode_cases op with ⟨-, h⟩ | ⟨-, h⟩ <;> rw [h] <;> rfl

theorem step_storesAboveReserved {s t : State} (h : step s = .next t) : StoresAboveReserved s t := by
  rcases step_cases s with h' | ⟨-, x, -, h'⟩ | ⟨-, -, e, -, h'⟩ | ⟨-, -, -, i, -, h'⟩ | ⟨-, -, -, e, -, h'⟩ <;>
    rw [h'] at h
  · cases h; exact storesAboveReserved_of_mem_eq rfl
  · cases h; exact storesAboveReserved_of_mem_eq (s.resumeKeyWait_mem x)
  · cases h; exact storesAboveReserved_of_mem_eq rfl
  · exact exec_storesAboveReserved h
  · cases h; exact storesAboveReserved_of_mem_eq (s.invalidOpcode_mem s.fetchWord)

/-- Settles O18: a store of a step lies outside the reserved region. -/
theorem reservedRegionNeverOverwritten : Obligations.ReservedRegionNeverOverwritten :=
  fun _ _ h _ ha => (step_storesAboveReserved h).readByte_eq (step_config h) ha

/-! ### The invariant (R25, R30, R31, R42, R43) -/

/-- RET pops the stack, CALL pushes the address after it where there is room, and no other instruction changes it. -/
theorem exec_stack_cases {i : Instr} {s t : State} (h : exec i s = .next t) :
    t.stack = s.stack ∨ (∃ a, s.stack = a :: t.stack) ∨
    (s.depth < stackDepth ∧ t.stack = (s.pc + 2#16) :: s.stack) := by
  rcases exec_ordinary_or_stops h with ho | ⟨r, e, m, rfl⟩
  · rcases ho.stack with hsame | rfl | ⟨nnn, rfl⟩
    · exact .inl hsame
    · rcases execRet_cases s with ⟨a, l, hl, h'⟩ | ⟨-, h'⟩ <;> cases h.symm.trans h'
      · exact .inr (.inl ⟨a, hl⟩)
      · exact .inl rfl
    · rcases execCall_cases s nnn with ⟨hd, h'⟩ | ⟨-, h'⟩ <;> cases h.symm.trans h'
      · exact .inr (.inr ⟨hd, rfl⟩)
      · exact .inl rfl
  · exact .inl rfl

/-- The farthest target of a jump is that of JP V0 with nnn = 0xFFF and an offset of 0xFF (R105). -/
theorem addrWord_add_byteWord_le (nnn : Addr) (b : Byte) : (addrWord nnn + byteWord b).toNat ≤ 0x10FE := by
  have hn := nnn.isLt
  have hb := b.isLt
  rw [BitVec.toNat_add, addrWord_toNat, byteWord_toNat]
  omega

theorem addrWord_le (nnn : Addr) : (addrWord nnn).toNat ≤ 0x10FE := by
  have hn := nnn.isLt
  rw [addrWord_toNat]
  omega

theorem State.advance_pc_le {s : State} (hpc : s.fetchable) : s.advance.pc.toNat ≤ 0x1000 := by
  have hlt : s.pc.toNat + 1 < 0x1000 := hpc
  rw [s.advance_pc_toNat hpc]
  omega

theorem Inv.transfer_pc_le {i : Instr} {s t : State} (hs : Inv s) (hi : isTransfer i = true) (h : exec i s = .next t) :
    t.pc.toNat ≤ 0x10FE := by
  cases i with
  | ret =>
    rcases execRet_cases s with ⟨a, l, hl, h'⟩ | ⟨-, h'⟩ <;> cases h.symm.trans h'
    · exact (hs.entries a (hl ▸ List.mem_cons_self)).trans (by decide)
    · exact hs.pc
  | call nnn =>
    rcases execCall_cases s nnn with ⟨-, h'⟩ | ⟨-, h'⟩ <;> cases h.symm.trans h'
    · exact addrWord_le nnn
    · exact hs.pc
  | jp nnn => cases h; exact addrWord_le nnn
  | jpV0 nnn => cases h; exact addrWord_add_byteWord_le nnn _
  | _ => cases hi

theorem State.runStateOk_of_running {s : State} (hrun : s.runState = .running) : s.runStateOk = true := by
  rw [State.runStateOk, hrun]

theorem exec_runStateOk {i : Instr} {s t : State} (hpc : s.fetchable) (hrun : s.runState = .running)
    (h : exec i s = .next t) : t.runStateOk = true := by
  rcases exec_outcomes h with ⟨e, rfl⟩ | ⟨x, -, -, rfl⟩ | ⟨x, -, -, rfl⟩ | ⟨x, -, rfl⟩ | ho
  · exact decide_eq_true rfl
  · exact State.runStateOk_of_running hrun
  · exact State.runStateOk_of_running hrun
  · exact decide_eq_true hpc
  · exact State.runStateOk_of_running (ho.runState.trans hrun)

section InvExec
variable {i : Instr} {s t : State} (hs : Inv s) (hpc : s.fetchable) (h : exec i s = .next t)
include hs hpc h

theorem Inv.exec_depth_entries : t.depth ≤ stackDepth ∧ ∀ a ∈ t.stack, a.toNat ≤ 0x1000 := by
  have hdepth : s.stack.length ≤ stackDepth := hs.depth
  have hentries := hs.entries
  rw [State.depth]
  rcases exec_stack_cases h with hsame | ⟨a, hpop⟩ | ⟨hroom, hpush⟩
  · rw [hsame]
    exact ⟨hdepth, hentries⟩
  · rw [hpop] at hdepth hentries
    exact ⟨(Nat.le_succ _).trans hdepth, fun b hb => hentries b (List.mem_cons_of_mem a hb)⟩
  · rw [hpush]
    exact ⟨hroom, List.forall_mem_cons.2 ⟨State.advance_pc_le hpc, hentries⟩⟩

theorem Inv.exec_pc_le : t.pc.toNat ≤ 0x10FE := by
  rcases exec_outcomes h with ⟨e, rfl⟩ | ⟨x, -, -, rfl⟩ | ⟨x, -, -, rfl⟩ | ⟨x, -, rfl⟩ | ho
  · exact hs.pc
  · exact hs.pc
  · exact hs.pc
  · exact hs.pc
  · have hlt : s.pc.toNat + 1 < 0x1000 := hpc
    rcases ho.pc with h2 | ⟨h4, -⟩ | htransfer
    · rw [h2]
      exact (State.advance_pc_le hpc).trans (by decide)
    · have hexact : t.pc.toNat = s.pc.toNat + 4 := h4 ▸ s.skipIf_pc_toNat true hpc
      omega
    · exact hs.transfer_pc_le htransfer h

end InvExec

theorem Inv.exec {i : Instr} {s t : State} (hs : Inv s) (hpc : s.fetchable) (hrun : s.runState = .running)
    (h : exec i s = .next t) : Inv t :=
  have hstores := exec_storesAboveReserved h
  have hconfig := exec_config h
  have ⟨hdepth, hentries⟩ := hs.exec_depth_entries hpc h
  { memory := hstores.wf hconfig hs.memory
    reserved := hstores.reservedIntact hconfig hs.reserved
    depth := hdepth
    entries := hentries
    pc := hs.exec_pc_le hpc h
    runState := exec_runStateOk hpc hrun h }

theorem Inv.raise {s : State} (hs : Inv s) (e : CoreError) : Inv (s.raise e) :=
  { hs with runState := decide_eq_true rfl }

theorem Inv.resumeKeyWait {s : State} (hs : Inv s) {x : Nibble} (hwait : s.runState = .waitingForKey x) :
    Inv (s.resumeKeyWait x) := by
  have hpc : s.fetchable := by
    have hok := hs.runState
    rw [State.runStateOk, hwait] at hok
    exact of_decide_eq_true hok
  rcases s.resumeKeyWait_cases x with ⟨k, -, h⟩ | ⟨-, h⟩ <;> rw [h]
  · exact { hs with pc := (State.advance_pc_le hpc).trans (by decide), runState := rfl }
  · exact hs

theorem Inv.invalidOpcode {s : State} (hs : Inv s) (hpc : s.fetchable) (hrun : s.runState = .running) (op : Word) :
    Inv (s.invalidOpcode op) := by
  rcases s.invalidOpcode_cases op with ⟨-, h⟩ | ⟨-, h⟩ <;> rw [h]
  · exact hs.raise _
  · exact { hs with pc := (State.advance_pc_le hpc).trans (by decide), runState := State.runStateOk_of_running hrun }

/-- Settles O16: each of the things a step can do keeps the invariant. -/
theorem stepKeepsInvariant : Obligations.StepKeepsInvariant := by
  intro s t hs h
  rcases step_cases s with h' | ⟨-, x, hwait, h'⟩ | ⟨-, -, e, -, h'⟩ | ⟨-, hrun, hpc, i, -, h'⟩ |
    ⟨-, hrun, hpc, -, -, h'⟩ <;>
    rw [h'] at h
  · cases h; exact hs
  · cases h; exact hs.resumeKeyWait hwait
  · cases h; exact hs.raise e
  · exact hs.exec hpc hrun h
  · cases h; exact hs.invalidOpcode hpc hrun s.fetchWord

/-! ### Faults of the I-based accesses (R61, R62, R173) -/

/-- An error entered changes `state` and `last_error` and nothing else (R233, R234). -/
theorem State.raises_raise (s : State) (e : CoreError) : Raises e s (s.raise e) := by
  simp [Raises, Frame]

theorem accessError_of_outside (kind : AccessKind) {a lowest : Word} {m : Nat} (hm : 1 ≤ m)
    (h : memSize < a.toNat + m) (hlowest : lowest.toNat = max a.toNat memSize) :
    accessError kind a m = some (.outOfBoundsMemoryAccess lowest) := by
  rw [accessError, if_pos (by omega), ← hlowest, BitVec.ofNat_toNat, BitVec.setWidth_eq]

theorem accessError_write_of_reserved {a : Word} {m : Nat} (h : a.toNat < reservedEnd) (hm : a.toNat + m ≤ memSize) :
    accessError .write a m = some (.outOfBoundsMemoryAccess a) := by
  rw [accessError, if_neg (by omega), if_pos ⟨rfl, h⟩]

/-- A checked instruction whose check fails raises the check's error and no more. -/
theorem State.checked_raises {s : State} {kind : AccessKind} {m : Nat} {e : CoreError} (rest : Result)
    (h : accessError kind s.i m = some e) : ∃ t, s.checked kind m rest = .next t ∧ Raises e s t :=
  ⟨s.raise e, s.checked_of_some rest h, s.raises_raise e⟩

/-- Settles O47: each of the four instructions is one checked access; the check fails past the end of
memory and, for a write, in the reserved region. -/
theorem blockAccessFaults : Obligations.BlockAccessFaults := by
  intro x y n s a ha
  have outside (kind : AccessKind) {m : Nat} (hm : 1 ≤ m) (h : 0x1000 < s.i.toNat + m) :
      accessError kind s.i m = some (.outOfBoundsMemoryAccess a) := accessError_of_outside kind hm h ha
  have reserved {m : Nat} (hm : m ≤ 16) (h : s.i.toNat < 0x200) :
      accessError .write s.i m = some (.outOfBoundsMemoryAccess s.i) :=
    accessError_write_of_reserved h (show _ ≤ 0x1000 by omega)
  exact ⟨fun h => State.checked_raises _ (outside .write (by decide) h),
    fun h => State.checked_raises _ (reserved (by decide) h),
    fun h => State.checked_raises _ (outside .write (Nat.le_add_left 1 _) h),
    fun h => State.checked_raises _ (reserved x.isLt h),
    fun h => State.checked_raises _ (outside .read (Nat.le_add_left 1 _) h),
    fun hn h => State.checked_raises _ (outside .read hn h)⟩

/-! ### Fetching what was stored (R75, R82, R276) -/

theorem fetchSees_of_readByte {u : State} {a : Nat} {b : Byte} (h : u.readByte a = b) : FetchSees u a b :=
  ⟨fun ha => by rw [u.fetchWord_high, ha, h], fun ha => by rw [u.fetchWord_low, ha, h]⟩

theorem toNat_bcdDigits (v : Byte) (k : Nat) (hk : k < 3) : (bcdDigits v)[k].toNat = decimalDigit v k := by
  have hv := v.isLt
  match k with
  | 0 | 1 | 2 =>
    simp only [bcdDigits, decimalDigit, List.getElem_cons_zero, List.getElem_cons_succ, BitVec.toNat_ofNat]
    omega

theorem State.getElem_regsUpTo (s : State) {x k : Nibble} (hk : k.toNat < (s.regsUpTo x).length) :
    (s.regsUpTo x)[k.toNat] = s.reg k := by
  simp only [State.regsUpTo, List.getElem_take, Vector.getElem_toList, State.reg]

/-- Settles O49: a block store puts its k-th byte at the k-th address, and a fetch reads what stands there. -/
theorem storedBytesAreFetched : Obligations.StoredBytesAreFetched := by
  intro x s _ hmem
  refine ⟨fun ⟨hI, hin⟩ => ?_, fun ⟨hI, hin⟩ => ?_⟩
  · refine ⟨_, s.checked_of_none _ ((accessError_write_eq_none (by decide)).2 ⟨hI, hin⟩), fun k hk => ?_⟩
    refine ⟨_, toNat_bcdDigits (s.reg x) k hk, fun u hu => fetchSees_of_readByte (hu.trans ?_)⟩
    exact s.readByte_storeBytes (bcdDigits (s.reg x)) hk hin hmem
  · refine ⟨_, s.checked_of_none _ ((accessError_write_eq_none (Nat.le_add_left 1 _)).2 ⟨hI, hin⟩), fun k hk u hu => ?_⟩
    have hlen : k.toNat < (s.regsUpTo x).length := by rw [s.length_regsUpTo]; omega
    refine fetchSees_of_readByte (hu.trans ?_)
    exact (s.readByte_storeBytes (s.regsUpTo x) hlen (by rwa [s.length_regsUpTo]) hmem).trans (s.getElem_regsUpTo hlen)

end Sys2Proof.Machine

/-! Proofs of the statements about encoding and decoding (30_encoding.md): the fields of a word reassembled, decoding after
encoding, and one specification that every class of the opcode map meets, from which the converse and the Unknown space
follow. -/

namespace Sys2Proof

/-! ### The fields of a word put it together again (R84) -/

section Reassembly
variable (op : Word)

theorem nib3_append_nib2 : nib3 op ++ nib2 op = op.extractLsb' 8 8 :=
  BitVec.extractLsb'_append_extractLsb'_eq_extractLsb' rfl

theorem nib1_append_nib0 : nib1 op ++ nib0 op = fieldKk op :=
  BitVec.extractLsb'_append_extractLsb'_eq_extractLsb' rfl

theorem nib3_append_fieldNnn : nib3 op ++ fieldNnn op = op :=
  (BitVec.extractLsb'_append_extractLsb'_eq_extractLsb' rfl).trans BitVec.extractLsb'_eq_self

theorem nib3_append_nib2_append_fieldKk : nib3 op ++ nib2 op ++ fieldKk op = op := by
  rw [nib3_append_nib2]
  exact (BitVec.extractLsb'_append_extractLsb'_eq_extractLsb' rfl).trans BitVec.extractLsb'_eq_self

theorem nibbles_append : nib3 op ++ nib2 op ++ nib1 op ++ nib0 op = op := by
  rw [BitVec.append_assoc, nib1_append_nib0]
  exact nib3_append_nib2_append_fieldKk op

end Reassembly

/-- Settles O5: a field is a slice of the word, and adjacent slices join. -/
theorem nibblesReassembleOpcode : Obligations.NibblesReassembleOpcode :=
  fun op => ⟨nibbles_append op, nib3_append_fieldNnn op, nib3_append_nib2_append_fieldKk op⟩

/-! The same, where the class nibble and the function field are known (R87). -/

section Formats
variable {op : Word} {o : Nibble} (ho : nib3 op = o)
include ho

theorem formatA_eq : o ++ fieldNnn op = op := by
  rw [← ho, nib3_append_fieldNnn]

theorem formatXK_eq : o ++ nib2 op ++ fieldKk op = op := by
  rw [← ho, nib3_append_nib2_append_fieldKk]

theorem formatXF_eq {f : Byte} (hf : fieldKk op = f) : o ++ nib2 op ++ f = op := by
  rw [← hf, formatXK_eq ho]

theorem formatXYN_eq : o ++ nib2 op ++ nib1 op ++ nib0 op = op := by
  rw [← ho, nibbles_append]

theorem formatXY_eq {f : Nibble} (hf : nib0 op = f) : o ++ nib2 op ++ nib1 op ++ f = op := by
  rw [← hf, formatXYN_eq ho]

/-- A word of a given class is fixed by its address field. -/
theorem eq_formatA_iff {nnn : Addr} : op = o ++ nnn ↔ fieldNnn op = nnn :=
  ⟨fun h => by rw [h, fieldNnn_formatA], fun h => by rw [← h, formatA_eq ho]⟩

end Formats

/-! CLS and RET lie in class 0, at two addresses a well-formed SYS does not have (R88, R89). -/

theorem eq_cls_iff {op : Word} (ho : nib3 op = 0x0#4) : op = 0x00E0#16 ↔ fieldNnn op = 0x0E0#12 :=
  eq_formatA_iff (nnn := 0x0E0#12) ho

theorem eq_ret_iff {op : Word} (ho : nib3 op = 0x0#4) : op = 0x00EE#16 ↔ fieldNnn op = 0x0EE#12 :=
  eq_formatA_iff (nnn := 0x0EE#12) ho

/-! ### The decoder on words written out (R88, R90) -/

/-- Settles O1: closed computations of the decoder. -/
theorem decodeReadsSpecWords : Obligations.DecodeReadsSpecWords := by
  unfold Obligations.DecodeReadsSpecWords
  decide

/-! ### Decoding after encoding (R80, R87, R88) -/

theorem decodeWord_encode {extras : Bool} {i : Instr} (h : i.wf extras = true) :
    decodeWord extras (encode i) = .ok i := by
  cases i with
  | sys nnn =>
    simp only [Instr.wf, Bool.and_eq_true, bne_iff_ne] at h
    obtain ⟨⟨rfl, hcls⟩, hret⟩ := h
    simp [encode, decodeWord, decodeClass0, eq_cls_iff, eq_ret_iff, hcls, hret]
  | subn x y =>
    have hextras : extras = true := h
    simp [encode, decodeWord, decodeClass8, hextras]
  | cls | ret => rfl
  | jp nnn | call nnn | ldI nnn | jpV0 nnn => simp [encode, decodeWord]
  | seImm x kk | sneImm x kk | ldImm x kk | addImm x kk | rnd x kk => simp [encode, decodeWord]
  | seReg x y | sneReg x y | drw x y n => simp [encode, decodeWord]
  | ldReg x y | or x y | and x y | xor x y | addReg x y | sub x y | shr x y | shl x y =>
    simp [encode, decodeWord, decodeClass8]
  | skp x | sknp x => simp [encode, decodeWord, decodeClassE]
  | ldVxDt x | ldVxK x | ldDt x | ldSt x | addI x | ldF x | ldB x | ldMemRegs x | ldRegsMem x =>
    simp [encode, decodeWord, decodeClassF]

/-- The decoder on bytes is the decoder on the word of the first two. -/
theorem decode_encodeBytes_append (extras : Bool) (i : Instr) (rest : List Byte) :
    decode extras (encodeBytes i ++ rest) = (decodeWord extras (encode i)).map fun j => (j, rest) := by
  simp [encodeBytes, decode]

/-- Settles O2: the bytes are those of the encoding word, which decodes to the instruction. -/
theorem decodeOfEncodedBytes : Obligations.DecodeOfEncodedBytes := by
  intro extras i rest h
  rw [decode_encodeBytes_append, decodeWord_encode h]
  rfl

/-! ### The Unknown space, class by class (R90) -/

section UnknownSpace
open Machine (unknownWord)
variable {extras : Bool} {op : Word}

theorem unknownWord_class0 (ho : nib3 op = 0x0#4) :
    unknownWord extras op ↔ extras = false ∧ op ≠ 0x00E0#16 ∧ op ≠ 0x00EE#16 := by
  simp [unknownWord, ho]

theorem unknownWord_class5 (ho : nib3 op = 0x5#4) : unknownWord extras op ↔ nib0 op ≠ 0x0#4 := by
  simp [unknownWord, ho]

theorem unknownWord_class8 (ho : nib3 op = 0x8#4) : unknownWord extras op ↔
    nib0 op ∈ [0x8#4, 0x9#4, 0xA#4, 0xB#4, 0xC#4, 0xD#4, 0xF#4] ∨ extras = false ∧ nib0 op = 0x7#4 := by
  simp [unknownWord, ho]

theorem unknownWord_class9 (ho : nib3 op = 0x9#4) : unknownWord extras op ↔ nib0 op ≠ 0x0#4 := by
  simp [unknownWord, ho]

theorem unknownWord_classE (ho : nib3 op = 0xE#4) : unknownWord extras op ↔ fieldKk op ∉ [0x9E#8, 0xA1#8] := by
  simp [unknownWord, ho]

theorem unknownWord_classF (ho : nib3 op = 0xF#4) : unknownWord extras op ↔
    fieldKk op ∉ [0x07#8, 0x0A#8, 0x15#8, 0x18#8, 0x1E#8, 0x29#8, 0x33#8, 0x55#8, 0x65#8] := by
  simp [unknownWord, ho]

/-- No other class holds an Unknown word. -/
theorem not_unknownWord_of_class (ho : nib3 op ∉ [0x0#4, 0x5#4, 0x8#4, 0x9#4, 0xE#4, 0xF#4]) :
    ¬ unknownWord extras op := by
  simp_all [unknownWord]

end UnknownSpace

/-! ### What every class of the opcode map answers (R88, R89, R90) -/

/-- `r` is the right answer for the word `op`: Unknown where R90 lists the word, and otherwise a well-formed instruction
that encodes as the word. -/
structure DecodesAsListed (extras : Bool) (op : Word) (r : Except DecodeError Instr) : Prop where
  refuses : Machine.unknownWord extras op → r = .error (.unknown op)
  decodes : ¬ Machine.unknownWord extras op → ∃ i, r = .ok i ∧ encode i = op ∧ i.wf extras = true

section Classes
variable {extras : Bool} {op : Word}

theorem DecodesAsListed.ok {i : Instr} (hop : ¬ Machine.unknownWord extras op) (henc : encode i = op)
    (hwf : i.wf extras = true) : DecodesAsListed extras op (.ok i) :=
  ⟨fun h => (hop h).elim, fun _ => ⟨i, rfl, henc, hwf⟩⟩

theorem DecodesAsListed.unknown (hop : Machine.unknownWord extras op) :
    DecodesAsListed extras op (.error (.unknown op)) :=
  ⟨fun _ => rfl, fun h => (h hop).elim⟩

theorem decodesAsListed_class0 (ho : nib3 op = 0x0#4) : DecodesAsListed extras op (decodeClass0 extras op) := by
  have hlist := unknownWord_class0 (extras := extras) ho
  unfold decodeClass0
  split
  next hcls => exact .ok (hlist.not.2 (by simp [hcls])) hcls.symm rfl
  next hcls =>
    split
    next hret => exact .ok (hlist.not.2 (by simp [hret])) hret.symm rfl
    next hret =>
      split
      next hextras =>
        rw [eq_cls_iff ho] at hcls
        rw [eq_ret_iff ho] at hret
        exact .ok (hlist.not.2 (by simp [hextras])) (formatA_eq ho) (by simp [Instr.wf, hextras, hcls, hret])
      next hextras => exact .unknown (hlist.2 (by simp [hcls, hret, hextras]))

/-- Classes 5 and 9 hold one instruction, with n0 = 0 (R88). -/
theorem decodesAsListed_ite_nib0 {i : Instr} (hlist : Machine.unknownWord extras op ↔ nib0 op ≠ 0x0#4)
    (henc : nib0 op = 0x0#4 → encode i = op) (hwf : i.wf extras = true) :
    DecodesAsListed extras op (if nib0 op = 0x0#4 then .ok i else .error (.unknown op)) := by
  split
  next hn => exact .ok (hlist.not.2 (by simp [hn])) (henc hn) hwf
  next hn => exact .unknown (hlist.2 hn)

/-- The function nibbles of class 8 that R88 does not name are those R90 lists. -/
theorem class8_nibble_listed : ∀ n : Nibble,
    n ∉ [0x0#4, 0x1#4, 0x2#4, 0x3#4, 0x4#4, 0x5#4, 0x6#4, 0x7#4, 0xE#4] →
      n ∈ [0x8#4, 0x9#4, 0xA#4, 0xB#4, 0xC#4, 0xD#4, 0xF#4] := by decide

/-- SUBN (arm `h_8`) is an instruction only with CANONICAL_EXTRAS; the last arm (`h_10`) is the nibbles R90 lists. -/
theorem decodesAsListed_class8 (ho : nib3 op = 0x8#4) : DecodesAsListed extras op (decodeClass8 extras op) := by
  have hlist := unknownWord_class8 (extras := extras) ho
  unfold decodeClass8
  dsimp only
  split
  case h_8 hn =>
    split
    next hextras => exact .ok (hlist.not.2 (by simp [hn, hextras])) (formatXY_eq ho hn) hextras
    next hextras => exact .unknown (hlist.2 (by simp [hn, hextras]))
  case h_10 => exact .unknown (hlist.2 (.inl (class8_nibble_listed (nib0 op) (by simp_all))))
  case h_1 hn | h_2 hn | h_3 hn | h_4 hn | h_5 hn | h_6 hn | h_7 hn | h_9 hn =>
    exact .ok (hlist.not.2 (by simp [hn])) (formatXY_eq ho hn) rfl

theorem decodesAsListed_classE (ho : nib3 op = 0xE#4) : DecodesAsListed extras op (decodeClassE op) := by
  have hlist := unknownWord_classE (extras := extras) ho
  unfold decodeClassE
  split
  case h_3 => exact .unknown (hlist.2 (by simp_all))
  case h_1 hk | h_2 hk => exact .ok (hlist.not.2 (by simp [hk])) (formatXF_eq ho hk) rfl

theorem decodesAsListed_classF (ho : nib3 op = 0xF#4) : DecodesAsListed extras op (decodeClassF op) := by
  have hlist := unknownWord_classF (extras := extras) ho
  unfold decodeClassF
  dsimp only
  split
  case h_10 => exact .unknown (hlist.2 (by simp_all))
  case h_1 hk | h_2 hk | h_3 hk | h_4 hk | h_5 hk | h_6 hk | h_7 hk | h_8 hk | h_9 hk =>
    exact .ok (hlist.not.2 (by simp [hk])) (formatXF_eq ho hk) rfl

/-- The class nibble of the decoder's last arm. -/
theorem nibble_eq_F : ∀ n : Nibble, n ∉ [0x0#4, 0x1#4, 0x2#4, 0x3#4, 0x4#4, 0x5#4, 0x6#4, 0x7#4, 0x8#4, 0x9#4, 0xA#4,
    0xB#4, 0xC#4, 0xD#4, 0xE#4] → n = 0xF#4 := by decide

/-- The arms of `decodeWord` stand in the order of the class nibble: `h_1` is class 0 and `h_16` class F. -/
theorem decodesAsListed_decodeWord (extras : Bool) (op : Word) : DecodesAsListed extras op (decodeWord extras op) := by
  unfold decodeWord
  split
  case h_1 ho => exact decodesAsListed_class0 ho
  case h_6 ho => exact decodesAsListed_ite_nib0 (unknownWord_class5 ho) (formatXY_eq ho) rfl
  case h_9 ho => exact decodesAsListed_class8 ho
  case h_10 ho => exact decodesAsListed_ite_nib0 (unknownWord_class9 ho) (formatXY_eq ho) rfl
  case h_15 ho => exact decodesAsListed_classE ho
  case h_16 => exact decodesAsListed_classF (nibble_eq_F (nib3 op) (by simp_all))
  case h_14 ho => exact .ok (not_unknownWord_of_class (by simp [ho])) (formatXYN_eq ho) rfl
  case h_2 ho | h_3 ho | h_11 ho | h_12 ho =>
    exact .ok (not_unknownWord_of_class (by simp [ho])) (formatA_eq ho) rfl
  case h_4 ho | h_5 ho | h_7 ho | h_8 ho | h_13 ho =>
    exact .ok (not_unknownWord_of_class (by simp [ho])) (formatXK_eq ho) rfl

end Classes

/-- Settles O4: one half of the specification that `decodeWord` meets. -/
theorem unknownSpaceIsExactlyListed : Obligations.UnknownSpaceIsExactlyListed := by
  intro extras op
  obtain ⟨refuses, decodes⟩ := decodesAsListed_decodeWord extras op
  refine ⟨refuses, fun h => ?_⟩
  obtain ⟨i, hi, -⟩ := decodes h
  exact ⟨i, hi⟩

/-- Settles O3: a word that decodes is not of R90's list, and then its one instruction is well-formed and encodes as it. -/
theorem encodeOfDecodedWord : Obligations.EncodeOfDecodedWord := by
  intro extras op i hi
  obtain ⟨refuses, decodes⟩ := decodesAsListed_decodeWord extras op
  have hop : ¬ Machine.unknownWord extras op := fun h => by cases hi.symm.trans (refuses h)
  obtain ⟨j, hj, henc, hwf⟩ := decodes hop
  cases hi.symm.trans hj
  exact ⟨henc, hwf⟩

end Sys2Proof

/-! Proofs of the statements about the cycle (30_encoding.md): one equation of `step` per state it starts from. -/

namespace Sys2Proof.Machine

/-! ### The step, by the state it starts from (R81, R237) -/

section StepEquations
variable {s : State}

theorem step_of_refused (h : s.refused ≠ none) : step s = .next s :=
  if_pos (Option.isSome_iff_ne_none.2 h)

section NotRefused
variable (hr : s.refused = none)
include hr

theorem step_of_halted {e : CoreError} (h : s.runState = .halted e) : step s = .next s := by
  simp [step, State.cycle, hr, h]

theorem step_of_waitingForKey {x : Nibble} (h : s.runState = .waitingForKey x) : step s = .next (s.resumeKeyWait x) := by
  simp [step, State.cycle, hr, h]

theorem step_of_running (h : s.runState = .running) : step s = s.fetchAndExecute := by
  simp [step, State.cycle, hr, h]

end NotRefused

theorem State.fetchAndExecute_of_fetchError {e : CoreError} (h : fetchError s.pc = some e) :
    s.fetchAndExecute = .next (s.raise e) := by
  simp [State.fetchAndExecute, h]

theorem State.fetchAndExecute_of_decodes {i : Instr} (hpc : s.fetchable)
    (hi : decodeWord s.config.canonicalExtras s.fetchWord = .ok i) : s.fetchAndExecute = exec i s := by
  simp [State.fetchAndExecute, fetchError_eq_none.2 hpc, hi]

end StepEquations

/-- Settles O8: the refusal mark is looked at first, then `state`. -/
theorem stepLeavesHaltedAndRefused : Obligations.StepLeavesHaltedAndRefused := by
  intro s h
  by_cases hr : s.refused = none
  · obtain ⟨e, he⟩ := h.resolve_left (not_not_intro hr)
    exact step_of_halted hr he
  · exact step_of_refused hr

/-- Settles O6: the step fetches, and the fetched word decodes. -/
theorem stepRunsDecodedInstruction : Obligations.StepRunsDecodedInstruction := by
  intro s i ⟨hr, hrun, hpc⟩ hi
  rw [step_of_running hr hrun, State.fetchAndExecute_of_decodes hpc hi]

/-! ### The fetch (R82, R83) -/

/-- Settles O7: two bytes joined. -/
theorem fetchWordIsBigEndian : Obligations.FetchWordIsBigEndian := by
  intro s
  have hlo := (s.readByte (s.pc.toNat + 1)).isLt
  rw [State.fetchWord, BitVec.toNat_append, ← Nat.shiftLeft_add_eq_or_of_lt hlo, Nat.shiftLeft_eq, Nat.mul_comm]

theorem fetchError_of_outside {pc : Word} (h : memSize ≤ pc.toNat) :
    fetchError pc = some (.outOfBoundsMemoryAccess pc) := if_pos h

theorem fetchError_of_last {pc : Word} (h : pc.toNat + 1 = memSize) :
    fetchError pc = some (.outOfBoundsMemoryAccess 0x1000#16) := by
  rw [fetchError, if_neg (by omega), if_pos h.ge]

theorem step_raises_fetchError {s : State} (hr : s.refused = none) (hrun : s.runState = .running) {e : CoreError}
    (h : fetchError s.pc = some e) : ∃ t, step s = .next t ∧ Raises e s t :=
  ⟨s.raise e, (step_of_running hr hrun).trans (State.fetchAndExecute_of_fetchError h), s.raises_raise e⟩

/-- Settles O10: the fetch fails at its first byte, or at its second. -/
theorem stepRaisesFetchFault : Obligations.StepRaisesFetchFault :=
  fun _ hr hrun => ⟨fun h => step_raises_fetchError hr hrun (fetchError_of_outside h),
    fun h => step_raises_fetchError hr hrun (fetchError_of_last (congrArg (· + 1) h))⟩

/-! ### The key wait (R81; D18, log entry 3) -/

theorem toNat_keyNumbers_getElem {j : Nat} (hj : j < keyNumbers.length) : keyNumbers[j].toNat = j := by
  have hj16 : j < 16 := hj
  simp only [keyNumbers, List.getElem_map, List.getElem_range, BitVec.toNat_ofNat]
  omega

section KeyChoice
variable {s : State} {k : Nibble}

/-- The key numbers are searched from the lowest up. -/
theorem State.lowestKey_lowest (h : s.lowestKey = some k) (k' : Nibble) (hk' : k'.toNat < k.toNat) :
    s.isPressed k' = false := by
  obtain ⟨-, j, hj, hjk, hlower⟩ := List.find?_eq_some_iff_getElem.1 h
  have hlt : k'.toNat < j := by rwa [← hjk, toNat_keyNumbers_getElem hj] at hk'
  have hk : keyNumbers[k'.toNat] = k' := BitVec.eq_of_toNat_eq (toNat_keyNumbers_getElem k'.isLt)
  simpa [hk] using hlower k'.toNat hlt

theorem State.chooseKey_of_lowest (h : s.config.keyChoice = .lowest) : s.chooseKey = s.lowestKey := by
  rw [State.chooseKey, h]

theorem State.chooseKey_of_other {name : Nat} (h : s.config.keyChoice = .other name)
    (hp : s.isPressed (Config.keyFunction name s.key) = true) :
    s.chooseKey = some (Config.keyFunction name s.key) := by
  simp [State.chooseKey, h, hp]

end KeyChoice

theorem keyByte_toNat (k : Nibble) : (keyByte k).toNat = k.toNat := by
  have := k.isLt
  simp only [keyByte, BitVec.toNat_setWidth]
  omega

/-- A completed wait has written the key, moved pc past the wait and set `state`, and nothing else (R81). -/
theorem frame_completedKeyWait (s : State) (x : Nibble) (b : Byte) :
    Frame { regs := [x], runState := true } s ((s.setReg x b).advance.setRunState .running) := by
  refine ⟨fun y hy => ?_, by simp⟩
  have hxy : x ≠ y := fun h => hy (h ▸ List.mem_singleton_self x)
  simp [hxy]

/-- Settles O9: the wait completes exactly where KEY_CHOICE answers a key. -/
theorem stepCompletesKeyWait : Obligations.StepCompletesKeyWait := by
  intro s x hr hwait hpc
  rw [step_of_waitingForKey hr hwait]
  rcases s.resumeKeyWait_cases x with ⟨k, hk, hnext⟩ | ⟨hk, hnext⟩ <;> rw [hnext]
  · have hpressed := State.chooseKey_eq_some hk
    refine ⟨fun hnone => ?_, fun _ => ⟨_, k, rfl, hpressed, fun hlow => ?_, fun name hother hp => ?_, ?_, ?_, rfl,
      frame_completedKeyWait s x _⟩⟩
    · simp [hnone k] at hpressed
    · exact State.lowestKey_lowest (State.chooseKey_of_lowest hlow ▸ hk)
    · exact Option.some.inj (hk.symm.trans (State.chooseKey_of_other hother hp))
    · simp [keyByte_toNat]
    · exact (s.setReg x _).advance_pc_toNat hpc
  · refine ⟨fun _ => rfl, fun ⟨k, hpressed⟩ => ?_⟩
    simp [State.chooseKey_eq_none hk k] at hpressed

end Sys2Proof.Machine

/-! Proofs of the statements about control transfer (40_control_flow.md): RET and CALL by whether the stack has an entry
or room, the jumps as one write of pc. -/

namespace Sys2Proof.Machine

/-! ### Frames -/

/-- An instruction that only sets pc has an empty frame. -/
theorem frame_setPc (s : State) (a : Word) : Frame {} s (s.setPc a) := by
  simp [Frame]

/-- RET and CALL set the stack and pc. -/
theorem frame_setStack_setPc (s : State) (l : List Word) (a : Word) :
    Frame { stack := true } s ((s.setStack l).setPc a) := by
  simp [Frame]

/-! ### The return stack (R30 to R32, R102, R104) -/

section ReturnStack
variable {s : State}

theorem exec_ret_of_stack_cons {a : Word} {l : List Word} (h : s.stack = a :: l) :
    exec .ret s = .next ((s.setStack l).setPc a) := by
  rcases execRet_cases s with ⟨b, m, hcons, h'⟩ | ⟨hnil, -⟩
  · cases h.symm.trans hcons
    exact h'
  · cases h.symm.trans hnil

theorem exec_ret_of_stack_nil (h : s.stack = []) : exec .ret s = .next (s.raise .stackUnderflow) := by
  rcases execRet_cases s with ⟨b, m, hcons, -⟩ | ⟨-, h'⟩
  · cases h.symm.trans hcons
  · exact h'

theorem exec_call_of_room (nnn : Addr) (h : s.depth < stackDepth) :
    exec (.call nnn) s = .next ((s.setStack (s.advance.pc :: s.stack)).setPc (addrWord nnn)) := by
  rcases execCall_cases s nnn with ⟨-, h'⟩ | ⟨hfull, -⟩
  · exact h'
  · exact absurd h hfull.not_gt

theorem exec_call_of_full (nnn : Addr) (h : stackDepth ≤ s.depth) :
    exec (.call nnn) s = .next (s.raise .stackOverflow) := by
  rcases execCall_cases s nnn with ⟨hroom, -⟩ | ⟨-, h'⟩
  · exact absurd hroom h.not_gt
  · exact h'

/-- Counted from the bottom (R30), a new top entry stands at the old depth. -/
theorem State.stackAt_depth_of_stack_cons {t : State} {a : Word} (h : t.stack = a :: s.stack) :
    t.stackAt s.depth = some a := by
  simp [State.stackAt, State.depth, h]

end ReturnStack

/-- Settles O29: the word is fixed, and the pop depends on whether the stack has an entry. -/
theorem retPopsOrUnderflows : Obligations.RetPopsOrUnderflows := by
  refine ⟨by decide, fun s a l h => ?_, fun s h => ?_⟩
  · have hdepth : l.length + 1 = s.depth := by rw [State.depth, h, List.length_cons]
    exact ⟨_, exec_ret_of_stack_cons h, rfl, rfl, hdepth, frame_setStack_setPc s l a⟩
  · exact ⟨_, exec_ret_of_stack_nil (List.length_eq_zero_iff.1 h), s.raises_raise .stackUnderflow⟩

/-- Settles O31: the pushed address is that of Advance, exact where pc can be fetched (D28). -/
theorem callPushesOrOverflows : Obligations.CallPushesOrOverflows := by
  refine fun nnn s hpc => ⟨fun hroom => ?_, fun hfull => ?_⟩
  · exact ⟨_, s.advance.pc, exec_call_of_room nnn hroom, s.advance_pc_toNat hpc, rfl,
      State.stackAt_depth_of_stack_cons rfl, rfl, addrWord_toNat nnn, frame_setStack_setPc s _ _⟩
  · exact ⟨_, exec_call_of_full nnn hfull, s.raises_raise .stackOverflow⟩

/-- Settles O32: RET pops what CALL pushed, whatever else the state it starts from holds. -/
theorem callThenRetReturnsAfterCall : Obligations.CallThenRetReturnsAfterCall := by
  intro nnn s hpc hroom
  refine ⟨_, exec_call_of_room nnn hroom, fun t' hstack => ?_⟩
  exact ⟨_, exec_ret_of_stack_cons hstack, s.advance_pc_toNat hpc, rfl⟩

/-! ### SYS and the jumps (R101, R103, R105) -/

/-- Settles O28: SYS is Advance (D7, D8), exact where pc can be fetched. -/
theorem sysOnlyAdvances : Obligations.SysOnlyAdvances :=
  fun _ s hpc => ⟨s.advance, rfl, s.advance_pc_toNat hpc, frame_setPc s _⟩

theorem exec_jp (nnn : Addr) (s : State) : exec (.jp nnn) s = .next (s.setPc (addrWord nnn)) := rfl

/-- Settles O30: JP sets pc to its zero-extended address. -/
theorem jpSetsPc : Obligations.JpSetsPc :=
  fun nnn s => ⟨_, exec_jp nnn s, addrWord_toNat nnn, frame_setPc s _⟩

/-- The sum of an address and an offset fits in a word (R105). -/
theorem addrWord_add_byteWord_toNat (nnn : Addr) (b : Byte) :
    (addrWord nnn + byteWord b).toNat = nnn.toNat + b.toNat := by
  have hn := nnn.isLt
  have hb := b.isLt
  rw [BitVec.toNat_add, addrWord_toNat, byteWord_toNat]
  omega

/-- Settles O33: the sum with the offset is exact, and the configuration says which register the offset is. -/
theorem jpV0AddsOffset : Obligations.JpV0AddsOffset := by
  intro nnn s
  have hsum := addrWord_add_byteWord_toNat nnn (s.jumpOffset nnn)
  refine ⟨s.setPc (addrWord nnn + byteWord (s.jumpOffset nnn)), rfl, fun hv0 => ?_, fun hvx => ?_, frame_setPc s _⟩
  · have hoffset : s.jumpOffset nnn = s.reg 0x0#4 := by simp [State.jumpOffset, hv0]
    exact hoffset ▸ hsum
  · have hoffset : s.jumpOffset nnn = s.reg (nnn.extractLsb' 8 4) := by simp [State.jumpOffset, hvx]
    exact hoffset ▸ hsum

theorem State.setPc_self (s : State) : s.setPc s.pc = s := rfl

/-- Settles O60: the step is the jump, which writes to pc what pc held (D39). -/
theorem selfJumpIsIdle : Obligations.SelfJumpIsIdle := by
  intro s ⟨hexec, nnn, hdecode, htarget⟩
  have hself : addrWord nnn = s.pc := BitVec.eq_of_toNat_eq ((addrWord_toNat nnn).trans htarget)
  calc step s = exec (.jp nnn) s := stepRunsDecodedInstruction s (.jp nnn) hexec hdecode
    _ = .next (s.setPc (addrWord nnn)) := exec_jp nnn s
    _ = .next s := by rw [hself, State.setPc_self]

end Sys2Proof.Machine

/-! Proofs of the statement about the conditional skips (41_skips.md): the four differ only in the condition they hand to
SkipIf (R119). -/

namespace Sys2Proof.Machine

/-- SkipIf sets pc and nothing else (R27). -/
theorem frame_skipIf (s : State) (c : Bool) : Frame {} s (s.skipIf c) := frame_setPc s _

/-- An instruction that is SkipIf of `c` moves pc by the distance `c` selects, exactly where pc can be fetched (D2). -/
theorem exec_moves_of_skipIf {i : Instr} {s : State} {c : Bool} {distance : Nat} (hpc : s.fetchable)
    (hexec : exec i s = .next (s.skipIf c)) (hdistance : (if c = true then 4 else 2) = distance) :
    ∃ t, exec i s = .next t ∧ t.pc.toNat = s.pc.toNat + distance ∧ Frame {} s t :=
  ⟨s.skipIf c, hexec, hdistance ▸ s.skipIf_pc_toNat c hpc, frame_skipIf s c⟩

/-- The distance of an SE: its condition is equality (R120, R122). -/
theorem skipDistance_beq (a b : Byte) : (if (a == b) = true then 4 else 2) = if a = b then 4 else 2 :=
  if_congr beq_iff_eq rfl rfl

/-- The distance of an SNE: its condition is inequality (R121, R123). -/
theorem skipDistance_bne (a b : Byte) : (if (a != b) = true then 4 else 2) = if a = b then 2 else 4 :=
  (if_congr bne_iff_ne rfl rfl).trans (ite_not ..)

/-- Settles O34: SE and SNE are SkipIf of equality and of inequality, with an immediate or a register as the second
operand. -/
theorem skipsMovePcByCondition : Obligations.SkipsMovePcByCondition := by
  intro x y kk s hpc
  refine ⟨?seImm, ?sneImm, ?seReg, ?sneReg⟩
  case seImm => exact exec_moves_of_skipIf hpc rfl (skipDistance_beq (s.reg x) kk)
  case sneImm => exact exec_moves_of_skipIf hpc rfl (skipDistance_bne (s.reg x) kk)
  case seReg => exact exec_moves_of_skipIf hpc rfl (skipDistance_beq (s.reg x) (s.reg y))
  case sneReg => exact exec_moves_of_skipIf hpc rfl (skipDistance_bne (s.reg x) (s.reg y))

end Sys2Proof.Machine

/-! Proofs of the statements about register loads and arithmetic (42_alu.md): one lemma per way a result is written
(to Vx alone, to Vx and then VF, by the configuration's choice of the two), and the value of each operation as a number. -/

namespace Sys2Proof.Machine

/-! ### Frames -/

/-- The registers besides `x` after a write to `x`. -/
theorem State.reg_setReg_of_notMem {x y : Nibble} (s : State) (b : Byte) (hy : y ∉ [x]) :
    (s.setReg x b).reg y = s.reg y :=
  (s.reg_setReg x y b).trans (if_neg (List.ne_of_not_mem_cons hy).symm)

theorem frame_setReg_advance (s : State) (x : Nibble) (b : Byte) : Frame { regs := [x] } s (s.setReg x b).advance :=
  ⟨fun _ => s.reg_setReg_of_notMem b, by simp⟩

theorem frame_countDraw_setReg_advance (s : State) (x : Nibble) (b : Byte) :
    Frame { regs := [x], draws := true } s (s.countDraw.setReg x b).advance :=
  ⟨fun _ => s.countDraw.reg_setReg_of_notMem b, by simp⟩

theorem frame_setResultAndFlag_advance (s : State) (x : Nibble) (r : Byte) (f : Bool) :
    Frame { regs := [x, 0xF#4] } s (s.setResultAndFlag x r f).advance := by
  refine ⟨fun y hy => ?_, by simp⟩
  obtain ⟨hx, hf⟩ : y ≠ x ∧ y ≠ vf := by simpa [vf] using hy
  simp [hx.symm, hf.symm]

/-! ### Results without a flag (R141, R142, R143, R152) -/

theorem State.setReg_advance_reg (s : State) (x : Nibble) (b : Byte) : (s.setReg x b).advance.reg x = b := by simp

/-- Vx written and pc advanced, and nothing else. -/
theorem setReg_advance_effect {s : State} (hpc : s.fetchable) (x : Nibble) (b : Byte) :
    (s.setReg x b).advance.reg x = b ∧ (s.setReg x b).advance.pc.toNat = s.pc.toNat + 2 ∧
      Frame { regs := [x] } s (s.setReg x b).advance :=
  ⟨s.setReg_advance_reg x b, (s.setReg x b).advance_pc_toNat hpc, frame_setReg_advance s x b⟩

/-- Settles O35: both write Vx alone; a sum of bytes is taken modulo 256. -/
theorem immediateLoadAndAdd : Obligations.ImmediateLoadAndAdd := by
  intro x kk s hpc
  refine ⟨rfl, rfl, ⟨_, rfl, setReg_advance_effect hpc x kk⟩, ?_⟩
  obtain ⟨hreg, hpc', hframe⟩ := setReg_advance_effect hpc x (s.reg x + kk)
  exact ⟨_, rfl, (congrArg BitVec.toNat hreg).trans (BitVec.toNat_add ..), hpc', hframe⟩

/-- Settles O36: one write of Vx, by what Vy held before it. -/
theorem ldRegCopies : Obligations.LdRegCopies :=
  fun x y s hpc => ⟨_, rfl, setReg_advance_effect hpc x (s.reg y)⟩

/-- Settles O41: a bit of a masked byte is a bit of the mask, whatever the drawn byte is. -/
theorem rndMasksFreshByte : Obligations.RndMasksFreshByte := by
  intro x kk s hpc
  obtain ⟨hreg, hpc', -⟩ := setReg_advance_effect (s := s.countDraw) hpc x (Config.randomByte s.draws &&& kk)
  refine ⟨_, rfl, hreg, fun n hn => ?_, rfl, hpc', frame_countDraw_setReg_advance s x _⟩
  rw [hreg, BitVec.getLsbD_and, Bool.and_eq_true] at hn
  exact hn.2

/-! ### The logic operations (R144 to R146; D10, D11) -/

theorem logicResult_setLogicResult_advance {s : State} (hpc : s.fetchable) (x : Nibble) (r : Byte) :
    LogicResult x r s (s.setLogicResult x r).advance := by
  have hsame : (s.setLogicResult x r).advance.pc = s.advance.pc := by simp
  refine ⟨hsame ▸ s.advance_pc_toNat hpc, fun hkeep => ?_, fun hreset => ?_⟩
  · have hset : s.setLogicResult x r = s.setReg x r := by simp [State.setLogicResult, hkeep]
    exact hset ▸ ⟨s.setReg_advance_reg x r, frame_setReg_advance s x r⟩
  · have hset : s.setLogicResult x r = s.setResultAndFlag x r false := by simp [State.setLogicResult, hreset]
    refine hset ▸ ⟨fun hx => ?_, ?_, frame_setResultAndFlag_advance s x r false⟩
    · simp [vf, hx.symm]
    · simp [vf, flagByte]

/-- Settles O37: the library says what each bit of a bitwise operation is. -/
theorem logicOpsCombineBits : Obligations.LogicOpsCombineBits := by
  intro x y s hpc
  refine ⟨s.reg x ||| s.reg y, s.reg x &&& s.reg y, s.reg x ^^^ s.reg y,
    fun _ => BitVec.getLsbD_or, fun _ => BitVec.getLsbD_and, fun _ => BitVec.getLsbD_xor, ?or, ?and, ?xor⟩
  case or => exact ⟨_, rfl, logicResult_setLogicResult_advance hpc x _⟩
  case and => exact ⟨_, rfl, logicResult_setLogicResult_advance hpc x _⟩
  case xor => exact ⟨_, rfl, logicResult_setLogicResult_advance hpc x _⟩

/-! ### Results with a flag (R140, R147 to R151; D10) -/

/-- The result as a number and the flag as a condition; the flag is written last, so that it stands where x = F. -/
theorem flaggedResult_setResultAndFlag_advance {s : State} (hpc : s.fetchable) (x : Nibble) {r : Byte} {f : Bool}
    {n : Nat} {p : Prop} (hr : r.toNat = n) (hf : f = true ↔ p) : FlaggedResult x n p s (s.setResultAndFlag x r f).advance := by
  have hflag : (s.setResultAndFlag x r f).advance.reg 0xF#4 = flagByte f := by simp [vf]
  refine ⟨fun hx => ?_, fun hp => ?_, fun hp => ?_, State.advance_pc_toNat _ hpc,
    frame_setResultAndFlag_advance s x r f⟩
  · simp [vf, hx.symm, hr]
  · rw [hflag, flagByte, if_pos (hf.2 hp)]
  · rw [hflag, flagByte, if_neg (mt hf.1 hp)]

/-- Settles O38: the carry is computed from the exact sum. -/
theorem addRegSumAndCarry : Obligations.AddRegSumAndCarry := fun x _ _ hpc =>
  ⟨_, rfl, flaggedResult_setResultAndFlag_advance hpc x (BitVec.toNat_add ..) decide_eq_true_iff⟩

/-- The difference of two bytes modulo 256. -/
theorem byte_sub_toNat (a b : Byte) : (a - b).toNat = (a.toNat + 256 - b.toNat) % 256 := by
  have hb := b.isLt
  rw [BitVec.toNat_sub]
  omega

/-- Settles O39: SUBN is SUB with the operands exchanged (D9). -/
theorem subtractionsAndNotBorrow : Obligations.SubtractionsAndNotBorrow := by
  intro x y s hpc
  refine ⟨?sub, ?subn⟩
  case sub =>
    exact ⟨_, rfl, flaggedResult_setResultAndFlag_advance hpc x (byte_sub_toNat (s.reg x) (s.reg y)) decide_eq_true_iff⟩
  case subn =>
    exact ⟨_, rfl, flaggedResult_setResultAndFlag_advance hpc x (byte_sub_toNat (s.reg y) (s.reg x)) decide_eq_true_iff⟩

section Shifts
variable (v : Byte)

theorem shiftRight_one_toNat : (v >>> 1).toNat = v.toNat / 2 := by
  rw [BitVec.toNat_ushiftRight, Nat.shiftRight_one]

theorem shiftLeft_one_toNat : (v <<< 1).toNat = 2 * v.toNat % 256 := by
  rw [BitVec.toNat_shiftLeft, Nat.shiftLeft_eq, Nat.mul_comm]

theorem shiftedOutRight_iff : shiftedOutRight v = true ↔ v.toNat % 2 = 1 := by
  rw [shiftedOutRight, BitVec.getLsbD, Nat.testBit_zero, decide_eq_true_iff]

/-- Bit 7 is the most significant one, set from 128 up. -/
theorem shiftedOutLeft_iff : shiftedOutLeft v = true ↔ v.toNat ≥ 128 := by
  have hmsb : shiftedOutLeft v = v.msb := (BitVec.msb_eq_getLsbD_last v).symm
  rw [hmsb, BitVec.msb_eq_decide, decide_eq_true_iff]

end Shifts

/-- Settles O40: the source is the one the configuration chooses (D12), and each shift is a result with a flag. -/
theorem shiftsByOne : Obligations.ShiftsByOne := by
  intro x y s v hpc hv
  obtain rfl : v = s.shiftSource x y := hv
  refine ⟨?shr, ?shl⟩
  case shr =>
    exact ⟨_, rfl, flaggedResult_setResultAndFlag_advance hpc x (shiftRight_one_toNat _) (shiftedOutRight_iff _)⟩
  case shl =>
    exact ⟨_, rfl, flaggedResult_setResultAndFlag_advance hpc x (shiftLeft_one_toNat _) (shiftedOutLeft_iff _)⟩

end Sys2Proof.Machine

/-! Proofs of the statements about the index register and memory (43_index_memory.md): what a write of I and a block
transfer leave unchanged, the meaning of each checked instruction where its check passes, and the bytes and registers a
transfer moves. -/

namespace Sys2Proof.Machine

/-! ### Frames -/

section Frames
variable {w : Footprint} {s t : State}

theorem Frame.advance (h : Frame w s t) : Frame w s t.advance := h

/-- A write of I and an Advance add I to what may have changed. -/
theorem Frame.setI_advance (h : Frame w s t) (a : Word) : Frame { w with i := true } s (t.setI a).advance := by
  obtain ⟨hreg, hmem, -, hrest⟩ := h
  exact ⟨hreg, hmem, nofun, hrest⟩

theorem Frame.refl (w : Footprint) (s : State) : Frame w s s := by
  simp [Frame]

/-- A block store changes its own bytes and nothing else. -/
theorem frame_storeBytes (s : State) (a : Nat) (bs : List Byte) :
    Frame { memFrom := a, memLen := bs.length } s (s.storeBytes a bs) :=
  ⟨by simp, fun _ => s.readByte_storeBytes_of_outside bs, by simp⟩

/-- A refusal sets the mark and nothing else (R238). -/
theorem State.refuses_refuse (s : State) (r : RefuseReason) : Refuses r s (s.refuse r) := by
  simp [Refuses, Frame]

end Frames

/-- Advance is exact after an operation that keeps pc, where pc can be fetched (R27). -/
theorem advance_pc_toNat_of_pc_eq {s t : State} (hpc : s.fetchable) (h : t.pc = s.pc) :
    t.advance.pc.toNat = s.pc.toNat + 2 := by
  rw [t.advance_pc_toNat (h ▸ hpc), h]

/-! ### The index register (R171, R172; D15) -/

/-- I written and pc advanced, and nothing else. -/
theorem setI_advance_effect {s : State} (hpc : s.fetchable) (a : Word) :
    (s.setI a).advance.pc.toNat = s.pc.toNat + 2 ∧ Frame { i := true } s (s.setI a).advance :=
  ⟨(s.setI a).advance_pc_toNat hpc, (Frame.refl {} s).setI_advance a⟩

/-- Settles O42: both write I alone; a sum of words is taken modulo 65536. -/
theorem indexLoadAndAdd : Obligations.IndexLoadAndAdd := by
  intro nnn x s hpc
  have hsum : (s.i + byteWord (s.reg x)).toNat = (s.i.toNat + (s.reg x).toNat) % 65536 := by
    rw [BitVec.toNat_add, byteWord_toNat]
  exact ⟨⟨_, rfl, addrWord_toNat nnn, setI_advance_effect hpc _⟩, ⟨_, rfl, hsum, setI_advance_effect hpc _⟩⟩

/-! ### Glyphs (R34, R174; D16, D21) -/

section Glyphs
variable {x : Nibble} {s : State}

theorem exec_ldF_of_digit (h : (s.reg x).toNat ≤ 0xF) :
    exec (.ldF x) s = .next (s.setI (fontAddress (s.reg x))).advance := by
  rcases execLdF_cases s x with ⟨-, h'⟩ | ⟨hlarge, -⟩
  · exact h'
  · exact absurd h hlarge.not_ge

theorem exec_ldF_of_large (h : 0xF < (s.reg x).toNat) :
    exec (.ldF x) s = .next (s.refuse (.fontDigitOutOfRange (s.reg x))) := by
  rcases execLdF_cases s x with ⟨hdigit, -⟩ | ⟨-, h'⟩
  · exact absurd hdigit h.not_ge
  · exact h'

/-- The font stands at the start of the reserved region (R36, R48). -/
theorem State.reservedIntact.readByte_font (h : s.reservedIntact) {a : Nat} (ha : a < 80) :
    s.readByte a = s.config.font[a] :=
  (h a (ha.trans (by decide))).trans (Memory.base_of_lt s.config.font ha)

end Glyphs

/-- Settles O43: the address of a digit's glyph is exact, and its five bytes lie in the font. -/
theorem ldFPointsAtGlyph : Obligations.LdFPointsAtGlyph := by
  refine fun x s hpc => ⟨fun hdigit => ?_, fun hlarge => ?_⟩
  · have haddr := fontAddress_toNat (s.reg x) hdigit
    obtain ⟨hpc', hframe⟩ := setI_advance_effect hpc (fontAddress (s.reg x))
    refine ⟨_, exec_ldF_of_digit hdigit, haddr, hpc', hframe, fun hres k _ h => ?_⟩
    calc s.readByte ((fontAddress (s.reg x)).toNat + k)
      _ = s.readByte (5 * (s.reg x).toNat + k) := by rw [haddr]
      _ = s.config.font[5 * (s.reg x).toNat + k] := hres.readByte_font h
  · exact ⟨_, exec_ldF_of_large hlarge, s.refuses_refuse _⟩

/-! ### Block transfers (R173, R175 to R177) -/

section BlockTransfers
variable {x : Nibble} {s : State}

theorem exec_ldB_of_writable (h : s.blockWritable 3) :
    exec (.ldB x) s = .next (s.storeBytes s.i.toNat (bcdDigits (s.reg x))).advance :=
  s.checked_of_none _ ((accessError_write_eq_none (by decide)).2 h)

theorem exec_ldMemRegs_of_writable (h : s.blockWritable (x.toNat + 1)) :
    exec (.ldMemRegs x) s = .next ((s.storeBytes s.i.toNat (s.regsUpTo x)).setI (s.blockIndex x)).advance :=
  s.checked_of_none _ ((accessError_write_eq_none (Nat.le_add_left 1 _)).2 h)

theorem exec_ldRegsMem_of_inside (h : s.blockInside (x.toNat + 1)) :
    exec (.ldRegsMem x) s = .next ((s.setRegs (s.loadedRegs x s.i.toNat)).setI (s.blockIndex x)).advance :=
  s.checked_of_none _ ((accessError_read_eq_none (Nat.le_add_left 1 _)).2 h)

/-- Writing `blockIndex` to I is what a block transfer does to it (D14). -/
theorem blockIndex_of_i_eq {t : State} (h : t.i = s.blockIndex x) : BlockIndex x s t := by
  refine ⟨fun hkeep => ?_, fun hincr => ?_⟩
  · simp [h, State.blockIndex, hkeep]
  · have hx := x.isLt
    simp only [h, State.blockIndex, hincr, if_true, BitVec.toNat_add, BitVec.toNat_ofNat]
    omega

/-- The block of V0..Vx stored at `a` reads back as the registers. -/
theorem State.readByte_storeBytes_regsUpTo {a : Nat} (h : a + (x.toNat + 1) ≤ memSize)
    (hm : Memory.wf s.config.font s.mem = true) {k : Nibble} (hk : k.toNat ≤ x.toNat) :
    (s.storeBytes a (s.regsUpTo x)).readByte (a + k.toNat) = s.reg k := by
  have hlen : k.toNat < (s.regsUpTo x).length := s.length_regsUpTo x ▸ Nat.lt_succ_of_le hk
  exact (s.readByte_storeBytes (s.regsUpTo x) hlen (by rwa [s.length_regsUpTo]) hm).trans (s.getElem_regsUpTo hlen)

/-- V0..Vx hold the bytes from `a` on, and the other registers what they held. -/
theorem State.reg_setRegs_loadedRegs (a : Nat) (k : Nibble) :
    (s.setRegs (s.loadedRegs x a)).reg k = if k.toNat ≤ x.toNat then s.readByte (a + k.toNat) else s.reg k := by
  simp only [State.reg_setRegs, State.loadedRegs, Vector.getElem_ofFn]
  rfl

/-- A load of registers changes the registers up to Vx and nothing else. -/
theorem frame_setRegs_loadedRegs (a : Nat) {r : List Nibble} (hr : ∀ k : Nibble, k ∈ r ↔ k.toNat ≤ x.toNat) :
    Frame { regs := r } s (s.setRegs (s.loadedRegs x a)) :=
  ⟨fun y hy => (State.reg_setRegs_loadedRegs a y).trans (if_neg (mt (hr y).2 hy)), by simp⟩

end BlockTransfers

/-- Settles O44: the k-th digit stands at the k-th address, and the store changes no byte but those three. -/
theorem ldBStoresDigits : Obligations.LdBStoresDigits := by
  intro x s hpc hw hmem
  have digit (k : Nat) (hk : k < 3) :
      ((s.storeBytes s.i.toNat (bcdDigits (s.reg x))).readByte (s.i.toNat + k)).toNat = decimalDigit (s.reg x) k :=
    (congrArg BitVec.toNat (s.readByte_storeBytes (bcdDigits (s.reg x)) hk hw.2 hmem)).trans
      (toNat_bcdDigits (s.reg x) k hk)
  exact ⟨_, exec_ldB_of_writable hw, digit 0 (by decide), digit 1 (by decide), digit 2 (by decide),
    advance_pc_toNat_of_pc_eq hpc (s.storeBytes_pc _ _), (frame_storeBytes s _ _).advance⟩

/-- Settles O45: the block stored is V0 to Vx, and its length x + 1. -/
theorem ldMemRegsStoresRegisters : Obligations.LdMemRegsStoresRegisters := by
  intro x s hpc hw hmem
  have hframe := (frame_storeBytes s s.i.toNat (s.regsUpTo x)).setI_advance (s.blockIndex x)
  rw [s.length_regsUpTo] at hframe
  exact ⟨_, exec_ldMemRegs_of_writable hw, fun k hk => State.readByte_storeBytes_regsUpTo hw.2 hmem hk,
    blockIndex_of_i_eq rfl, advance_pc_toNat_of_pc_eq hpc (s.storeBytes_pc _ _), hframe⟩

/-- Settles O46: each register is loaded or kept by whether its number is at most x. -/
theorem ldRegsMemLoadsRegisters : Obligations.LdRegsMemLoadsRegisters := by
  intro x s hpc hin
  refine ⟨_, exec_ldRegsMem_of_inside hin, fun k hk => ?_, fun k hk => ?_, blockIndex_of_i_eq rfl,
    advance_pc_toNat_of_pc_eq hpc rfl, fun r hr => ?_⟩
  · rw [State.advance_reg, State.setI_reg, State.reg_setRegs_loadedRegs, if_pos hk]
  · rw [State.advance_reg, State.setI_reg, State.reg_setRegs_loadedRegs, if_neg hk.not_ge]
  · exact (frame_setRegs_loadedRegs s.i.toNat hr).setI_advance (s.blockIndex x)

/-- Settles O48: the load reads the bytes the dump stored, wherever they come from. -/
theorem dumpThenLoadRestoresRegisters : Obligations.DumpThenLoadRestoresRegisters := by
  intro x s _ hw hmem
  refine ⟨_, exec_ldMemRegs_of_writable hw, fun t' hi hread => ?_⟩
  have hin : t'.blockInside (x.toNat + 1) := by rw [State.blockInside, hi]; exact hw.2
  refine ⟨_, exec_ldRegsMem_of_inside hin, fun k hk => ?_⟩
  calc (t'.setRegs (t'.loadedRegs x t'.i.toNat)).reg k
    _ = t'.readByte (t'.i.toNat + k.toNat) := (State.reg_setRegs_loadedRegs _ k).trans (if_pos hk)
    _ = (s.storeBytes s.i.toNat (s.regsUpTo x)).readByte (s.i.toNat + k.toNat) := by rw [hi]; exact hread _
    _ = s.reg k := State.readByte_storeBytes_regsUpTo hw.2 hmem hk

end Sys2Proof.Machine

/-! Proofs of the statements about the display (44_display.md): the drawing DRW makes, the pixels a sprite covers as the
model's `spriteCovers` states them, and a flip undone by itself. -/

namespace Sys2Proof.Machine

/-! ### CLS (R191) -/

/-- Settles O50: the cleared framebuffer has no pixel on, and neither VF nor anything else is written. -/
theorem clsClearsEveryPixel : Obligations.ClsClearsEveryPixel :=
  fun s hpc => ⟨_, rfl, Framebuffer.pixel_clear, (s.setFb Framebuffer.clear).advance_pc_toNat hpc, by simp [Frame]⟩

/-! ### The sprite in memory (R192, R193; D19, D20) -/

/-- The drawing DRW makes: the n bytes at I drawn at (Vx, Vy). -/
def State.spriteDrawing (s : State) (x y n : Nibble) : Drawing :=
  s.fb.draw (s.reg x).toNat (s.reg y).toNat (s.readBytes s.i.toNat n.toNat)

@[simp] theorem State.length_readBytes (s : State) (a m : Nat) : (s.readBytes a m).length = m := by
  simp [State.readBytes]

@[simp] theorem State.getElem_readBytes (s : State) {a m k : Nat} (hk : k < (s.readBytes a m).length) :
    (s.readBytes a m)[k] = s.readByte (a + k) := by
  simp [State.readBytes]

/-- A sprite has fewer rows than the framebuffer, so that none of its rows wraps onto another. -/
theorem State.length_sprite_le (s : State) (n : Nibble) : (s.readBytes s.i.toNat n.toNat).length ≤ 32 := by
  rw [s.length_readBytes]
  exact n.isLt.le.trans (by decide)

section Sprite
variable {x y n : Nibble} {s : State}

/-- The pixels the n bytes at I cover, drawn at (Vx, Vy), are those of `spriteCovers`. -/
theorem covered_readBytes_iff {row : Fin 32} {col : Fin 64} :
    covered (s.reg x).toNat (s.reg y).toNat (s.readBytes s.i.toNat n.toNat) row col ↔ s.spriteCovers x y n row col := by
  simp only [covered, State.spriteCovers, State.length_readBytes, State.getElem_readBytes, Fin.ext_iff, Fin.val_ofNat,
    exists_prop]

theorem pixel_spriteDrawing (row : Fin 32) (col : Fin 64) : (s.spriteDrawing x y n).fb.pixel row col = true ↔
    Xor (s.fb.pixel row col = true) (s.spriteCovers x y n row col) := by
  rw [← covered_readBytes_iff]
  exact (s.fb.draw_spec _ _ _ (s.length_sprite_le n)).1 row col

theorem spriteDrawing_collided : (s.spriteDrawing x y n).collided = true ↔
    ∃ row col, s.spriteCovers x y n row col ∧ s.fb.pixel row col = true := by
  simp only [← covered_readBytes_iff]
  exact (s.fb.draw_spec _ _ _ (s.length_sprite_le n)).2

/-- What a sprite covers depends on I, the two coordinates and memory alone. -/
theorem spriteCovers_congr {t : State} (hi : t.i = s.i) (hx : t.reg x = s.reg x) (hy : t.reg y = s.reg y)
    (hread : ∀ a, t.readByte a = s.readByte a) (row : Fin 32) (col : Fin 64) :
    t.spriteCovers x y n row col ↔ s.spriteCovers x y n row col := by
  simp only [State.spriteCovers, hi, hx, hy, hread]

end Sprite

/-! ### DRW (R192) -/

/-- A read of no byte, or of bytes inside memory, raises nothing (D20). -/
theorem accessError_read_of_empty_or_inside {a : Word} {m : Nat} (h : m = 0 ∨ a.toNat + m ≤ memSize) :
    accessError .read a m = none := by
  rcases Nat.eq_zero_or_pos m with rfl | hm
  · simp [accessError]
  · exact (accessError_read_eq_none hm).2 (h.resolve_left hm.ne')

theorem exec_drw_of_inside {x y n : Nibble} {s : State} (h : n.toNat = 0 ∨ s.blockInside n.toNat) :
    exec (.drw x y n) s =
      .next ((s.setFb (s.spriteDrawing x y n).fb).setFlag (s.spriteDrawing x y n).collided).advance :=
  s.checked_of_none _ (accessError_read_of_empty_or_inside h)

theorem frame_setFb_setFlag_advance (s : State) (f : Framebuffer) (c : Bool) :
    Frame { regs := [0xF#4], fb := true } s ((s.setFb f).setFlag c).advance :=
  ⟨fun _ => (s.setFb f).reg_setReg_of_notMem (flagByte c), by simp⟩

theorem State.setFlag_advance_reg_vf (s : State) (f : Bool) : (s.setFlag f).advance.reg 0xF#4 = flagByte f := by
  simp [vf]

theorem flagByte_eq_one_iff {f : Bool} : flagByte f = 1#8 ↔ f = true := by
  cases f <;> decide

/-- Settles O51: the drawing flips what the sprite covers, and collides where a covered pixel was on. -/
theorem drwXorsSprite : Obligations.DrwXorsSprite := by
  intro x y n s hpc hin
  refine ⟨_, exec_drw_of_inside hin, fun row col => ?_, fun hon => ?_, fun hoff => ?_,
    advance_pc_toNat_of_pc_eq hpc rfl, frame_setFb_setFlag_advance s _ _⟩
  · simpa [Xor, and_comm] using pixel_spriteDrawing row col
  · rw [State.setFlag_advance_reg_vf, flagByte_eq_one_iff]
    exact spriteDrawing_collided.2 hon
  · have hclear : ¬ (s.spriteDrawing x y n).collided = true := by
      rw [spriteDrawing_collided]
      rintro ⟨row, col, hcov, hon⟩
      exact Bool.false_ne_true ((hoff row col hcov).symm.trans hon)
    rw [State.setFlag_advance_reg_vf, flagByte, if_neg hclear]

/-! ### Drawing twice (R194) -/

section DrawTwice
variable {x y n : Nibble} {s t : State}

/-- The second draw flips the same pixels back. -/
theorem spriteDrawing_restores (hfb : t.fb = (s.spriteDrawing x y n).fb)
    (hcov : ∀ row col, t.spriteCovers x y n row col ↔ s.spriteCovers x y n row col) :
    (t.spriteDrawing x y n).fb = s.fb := by
  refine Framebuffer.ext_pixel fun row col => Bool.eq_iff_iff.2 ?_
  rw [pixel_spriteDrawing, hfb, pixel_spriteDrawing, hcov]
  unfold Xor
  tauto

/-- A covered pixel is on at the second draw exactly where the first turned it on. -/
theorem spriteDrawing_collided_again (hfb : t.fb = (s.spriteDrawing x y n).fb)
    (hcov : ∀ row col, t.spriteCovers x y n row col ↔ s.spriteCovers x y n row col) :
    (t.spriteDrawing x y n).collided = true ↔
      ∃ row col, s.fb.pixel row col = false ∧ (s.spriteDrawing x y n).fb.pixel row col = true := by
  rw [spriteDrawing_collided]
  refine exists_congr fun row => exists_congr fun col => ?_
  rw [hfb, hcov, pixel_spriteDrawing, ← Bool.not_eq_true]
  unfold Xor
  tauto

end DrawTwice

/-- Settles O52: the second draw covers the same pixels as the first and starts from what the first left. -/
theorem drwTwiceRestoresFramebuffer : Obligations.DrwTwiceRestoresFramebuffer := by
  intro x y n s _ hin
  refine ⟨_, exec_drw_of_inside hin, fun t' hfb hi hx hy hread => ?_⟩
  have hcov := spriteCovers_congr (n := n) hi hx hy hread
  have hin' : n.toNat = 0 ∨ t'.blockInside n.toNat := by rwa [State.blockInside, hi]
  refine ⟨_, exec_drw_of_inside hin', spriteDrawing_restores hfb hcov, ?_⟩
  rw [State.setFlag_advance_reg_vf, flagByte_eq_one_iff]
  exact spriteDrawing_collided_again hfb hcov

end Sys2Proof.Machine

/-! Proofs of the statements about the keypad and the timers (45_keypad_timers.md): the key skips by whether Vx numbers a key,
LD Vx,K by what KEY_CHOICE answers, the timer loads by the one part each of them sets. -/

namespace Sys2Proof.Machine

/-! ### The key skips (R210, R211, R238; D17) -/

section KeySkips
variable {x : Nibble} {s : State}

/-- Where Vx is the number of a key, a key skip reads that key. -/
theorem State.skipIfKey_of_key {k : Nibble} (h : (s.reg x).toNat = k.toNat) (p : Bool) :
    s.skipIfKey x p = s.skipIf (s.isPressed k == p) := by
  have hkey : (s.reg x).setWidth 4 = k := BitVec.eq_of_toNat_eq <| by
    rw [BitVec.toNat_setWidth, h, Nat.mod_eq_of_lt k.isLt]
  rcases s.skipIfKey_cases x p with ⟨-, h'⟩ | ⟨hlarge, -⟩
  · rw [h', hkey]
  · exact absurd (h ▸ Nat.le_of_lt_succ k.isLt) hlarge.not_ge

theorem State.skipIfKey_of_large (h : 0xF < (s.reg x).toNat) (p : Bool) :
    s.skipIfKey x p = s.refuse (.keyOutOfRange (s.reg x)) := by
  rcases s.skipIfKey_cases x p with ⟨hkey, -⟩ | ⟨-, h'⟩
  · exact absurd hkey h.not_ge
  · exact h'

/-- An instruction that is a key skip is refused where Vx numbers no key. -/
theorem exec_refuses_of_skipIfKey {i : Instr} {p : Bool} (hlarge : 0xF < (s.reg x).toNat)
    (hexec : exec i s = .next (s.skipIfKey x p)) :
    ∃ t, exec i s = .next t ∧ Refuses (.keyOutOfRange (s.reg x)) s t :=
  ⟨_, hexec, State.skipIfKey_of_large hlarge p ▸ s.refuses_refuse _⟩

end KeySkips

/-- The distance of SKP: its condition is that the key is down (R210). -/
theorem skipDistance_beq_true (b : Bool) : (if (b == true) = true then 4 else 2) = if b = true then 4 else 2 := by
  rw [beq_true]

/-- The distance of SKNP: its condition is that the key is up (R211). -/
theorem skipDistance_beq_false (b : Bool) : (if (b == false) = true then 4 else 2) = if b = true then 2 else 4 := by
  cases b <;> rfl

/-- Settles O53: SKP and SKNP are SkipIf of the two states of one key, and refusals where Vx is above 0xF. -/
theorem keySkipsReadOneKey : Obligations.KeySkipsReadOneKey := by
  refine fun x k s hpc => ⟨fun hkey => ⟨?skp, ?sknp⟩, fun hlarge => ⟨?skpLarge, ?sknpLarge⟩⟩
  case skp =>
    have hexec : exec (.skp x) s = _ := congrArg Host.Outcome.next (State.skipIfKey_of_key hkey true)
    exact exec_moves_of_skipIf hpc hexec (skipDistance_beq_true _)
  case sknp =>
    have hexec : exec (.sknp x) s = _ := congrArg Host.Outcome.next (State.skipIfKey_of_key hkey false)
    exact exec_moves_of_skipIf hpc hexec (skipDistance_beq_false _)
  case skpLarge => exact exec_refuses_of_skipIfKey hlarge rfl
  case sknpLarge => exact exec_refuses_of_skipIfKey hlarge rfl

/-! ### LD Vx,K (R213; D18, log entry 3) -/

/-- Entering the key wait sets `state` and nothing else. -/
theorem frame_setRunState (s : State) (r : RunState) : Frame { runState := true } s (s.setRunState r) := by
  simp [Frame]

/-- Settles O55: LD Vx,K completes exactly where KEY_CHOICE answers a key. -/
theorem ldVxKStoresOrWaits : Obligations.LdVxKStoresOrWaits := by
  intro x s hpc
  rcases execLdVxK_cases s x with ⟨k, hk, hexec⟩ | ⟨hk, hexec⟩
  · have hpressed := State.chooseKey_eq_some hk
    obtain ⟨hreg, hpc', hframe⟩ := setReg_advance_effect hpc x (keyByte k)
    refine ⟨fun _ => ⟨_, k, hexec, hpressed, fun hlow => ?lowest, fun name hother hp => ?other,
      (congrArg BitVec.toNat hreg).trans (keyByte_toNat k), hpc', hframe⟩, fun hnone => ?noneDown⟩
    case lowest => exact State.lowestKey_lowest (State.chooseKey_of_lowest hlow ▸ hk)
    case other => exact Option.some.inj (hk.symm.trans (State.chooseKey_of_other hother hp))
    case noneDown => simp [hnone k] at hpressed
  · refine ⟨fun ⟨k, hpressed⟩ => ?_, fun _ => ⟨_, hexec, rfl, rfl, frame_setRunState s _⟩⟩
    simp [State.chooseKey_eq_none hk k] at hpressed

/-! ### The timer transfers (R212, R214, R215) -/

theorem frame_setDt_advance (s : State) (b : Byte) : Frame { dt := true } s (s.setDt b).advance := by
  simp [Frame]

theorem frame_setSt_advance (s : State) (b : Byte) : Frame { st := true } s (s.setSt b).advance := by
  simp [Frame]

/-- Settles O54: each transfer writes its one destination and advances pc. -/
theorem timerTransfers : Obligations.TimerTransfers := by
  refine fun x s hpc => ⟨?ldVxDt, ?ldDt, ?ldSt⟩
  case ldVxDt => exact ⟨_, rfl, setReg_advance_effect hpc x s.dt⟩
  case ldDt => exact ⟨_, rfl, rfl, (s.setDt _).advance_pc_toNat hpc, frame_setDt_advance s _⟩
  case ldSt => exact ⟨_, rfl, rfl, (s.setSt _).advance_pc_toNat hpc, frame_setSt_advance s _⟩

end Sys2Proof.Machine

/-! Proofs of the statements about errors and the host's transactions (60_exceptions.md): what raises and what refuses, that
every step and every dutiful schedule runs, and what schedules keep, each from what one move can do. -/

namespace Sys2Proof.Machine

/-! ### Errors and refusals (R230, R234, R236, R238; D4, D26) -/

section UnknownWord
variable {s : State}

theorem State.fetchAndExecute_of_decodeError {e : DecodeError} (hpc : s.fetchable)
    (he : decodeWord s.config.canonicalExtras s.fetchWord = .error e) :
    s.fetchAndExecute = .next (s.invalidOpcode s.fetchWord) := by
  simp [State.fetchAndExecute, fetchError_eq_none.2 hpc, he]

theorem State.invalidOpcode_of_halt (h : s.config.invalidOpcodePolicy = .halt) (op : Word) :
    s.invalidOpcode op = s.raise (.invalidOpcode op) := by
  rw [State.invalidOpcode, h]

theorem State.invalidOpcode_of_skip (h : s.config.invalidOpcodePolicy = .skip) (op : Word) :
    s.invalidOpcode op = (s.recordError (.invalidOpcode op)).advance := by
  rw [State.invalidOpcode, h]

end UnknownWord

theorem frame_recordError_advance (s : State) (e : CoreError) :
    Frame { lastError := true } s (s.recordError e).advance := by
  simp [Frame]

/-- Settles O11: the decoder refuses the fetched word, and the policy says what that does. -/
theorem stepOnUnknownWord : Obligations.StepOnUnknownWord := by
  intro s ⟨hr, hrun, hpc⟩ hunknown
  have herror := (unknownSpaceIsExactlyListed _ _).1 hunknown
  rw [step_of_running hr hrun, State.fetchAndExecute_of_decodeError hpc herror]
  refine ⟨fun hhalt => ?halt, fun hskip => ?skip⟩
  case halt => exact ⟨_, rfl, State.invalidOpcode_of_halt hhalt _ ▸ s.raises_raise _⟩
  case skip =>
    rw [State.invalidOpcode_of_skip hskip]
    exact ⟨_, rfl, rfl, (s.recordError _).advance_pc_toNat hpc, frame_recordError_advance s _⟩

/-- Settles O19: of all an instruction can do, only raising an error halts a Running machine. -/
theorem raisedErrorsChangeNothingElse : Obligations.RaisedErrorsChangeNothingElse := by
  intro i s t e hrun h hhalt
  have not_halted : s.runState ≠ .halted e := by simp [hrun]
  rcases exec_outcomes h with ⟨e', rfl⟩ | ⟨x, -, -, rfl⟩ | ⟨x, -, -, rfl⟩ | ⟨x, -, rfl⟩ | ho
  · cases hhalt; exact s.raises_raise e
  · exact absurd hhalt not_halted
  · exact absurd hhalt not_halted
  · cases hhalt
  · exact absurd (ho.runState.symm.trans hhalt) not_halted

/-- Settles O26: of all an instruction can do, only the two refusals set the mark. -/
theorem refusalMarkOnlyOutOfRange : Obligations.RefusalMarkOnlyOutOfRange := by
  intro i s t h hmark
  rcases exec_outcomes h with ⟨e, rfl⟩ | ⟨x, hi, hx, rfl⟩ | ⟨x, hi, hx, rfl⟩ | ⟨x, -, rfl⟩ | ho
  · exact absurd rfl hmark
  · exact .inl ⟨x, hi, hx, s.refuses_refuse _⟩
  · exact .inr ⟨x, hi, hx, s.refuses_refuse _⟩
  · exact absurd rfl hmark
  · exact absurd ho.refused hmark

/-! ### Everything runs (R232, R251; D24, log entries 4, 5, 10) -/

theorem State.checked_answers_next (s t : State) (kind : AccessKind) (m : Nat) :
    ∃ u, s.checked kind m (.next t) = .next u := by
  rcases s.checked_cases kind m (.next t) with ⟨e, -, h⟩ | ⟨-, h⟩ <;> exact ⟨_, h⟩

theorem exec_answers_next (i : Instr) (s : State) : ∃ t, exec i s = .next t := by
  cases i with
  | ret => rcases execRet_cases s with ⟨a, l, -, h⟩ | ⟨-, h⟩ <;> exact ⟨_, h⟩
  | call nnn => rcases execCall_cases s nnn with ⟨-, h⟩ | ⟨-, h⟩ <;> exact ⟨_, h⟩
  | ldF x => rcases execLdF_cases s x with ⟨-, h⟩ | ⟨-, h⟩ <;> exact ⟨_, h⟩
  | ldVxK x => rcases execLdVxK_cases s x with ⟨k, -, h⟩ | ⟨-, h⟩ <;> exact ⟨_, h⟩
  | drw x y n => exact s.checked_answers_next _ .read n.toNat
  | ldB x => exact s.checked_answers_next _ .write 3
  | ldMemRegs x => exact s.checked_answers_next _ .write (x.toNat + 1)
  | ldRegsMem x => exact s.checked_answers_next _ .read (x.toNat + 1)
  | _ => exact ⟨_, rfl⟩

theorem step_answers_next (s : State) : ∃ t, step s = .next t := by
  rcases step_cases s with h | ⟨-, x, -, h⟩ | ⟨-, -, e, -, h⟩ | ⟨-, -, -, i, -, h⟩ | ⟨-, -, -, e, -, h⟩
  · exact ⟨_, h⟩
  · exact ⟨_, h⟩
  · exact ⟨_, h⟩
  · exact h ▸ exec_answers_next i s
  · exact ⟨_, h⟩

theorem perform_answers_next (t : Transaction) (s : State) : ∃ u, perform t s = .next u := by
  cases t with
  | cycle => exact step_answers_next s
  | _ => exact ⟨_, rfl⟩

/-- Every transaction that the duties allow has a move (R251). -/
theorem transact_of_allowed {t : Transaction} {y : System} (h : t.allowed y.fresh = true) :
    ∃ w, transact t y = some w ∧ w.fresh = t.freshAfter y.fresh := by
  obtain ⟨u, hu⟩ := perform_answers_next t y.core
  exact ⟨⟨u, _⟩, transact_eq_some.2 ⟨h, hu, rfl⟩, rfl⟩

/-- The duty of a schedule is that of its first move, and that of the rest after it. -/
theorem loadsWhenFresh_cons (fresh : Bool) (t : Transaction) (ts : List Transaction) :
    loadsWhenFresh fresh (t :: ts) = (t.allowed fresh && loadsWhenFresh (t.freshAfter fresh) ts) := by
  cases t <;> rfl

theorem runSchedule_runs_iff (ts : List Transaction) (y : System) :
    (∃ z, runSchedule ts y = some z) ↔ loadsWhenFresh y.fresh ts = true := by
  induction ts generalizing y with
  | nil => exact ⟨fun _ => rfl, fun _ => ⟨y, rfl⟩⟩
  | cons t ts ih =>
    rw [loadsWhenFresh_cons, Bool.and_eq_true]
    constructor
    · rintro ⟨z, hz⟩
      obtain ⟨w, hw, hrest⟩ := runSchedule_cons_eq_some.1 hz
      obtain ⟨hallowed, -, hfresh⟩ := transact_eq_some.1 hw
      exact ⟨hallowed, hfresh ▸ (ih w).1 ⟨z, hrest⟩⟩
    · rintro ⟨hallowed, hduty⟩
      obtain ⟨w, hw, hfresh⟩ := transact_of_allowed hallowed
      obtain ⟨z, hz⟩ := (ih w).2 (hfresh ▸ hduty)
      exact ⟨z, runSchedule_cons_eq_some.2 ⟨w, hw, hz⟩⟩

/-- Settles O12: an error and a refused state's step are next states; a move is missing only where a duty forbids it. -/
theorem nothingAbortsAndDutifulSchedulesRun : Obligations.NothingAbortsAndDutifulSchedulesRun :=
  ⟨step_answers_next, exec_answers_next, runSchedule_runs_iff⟩

/-! ### The invariant along a schedule (R250, R270, R272) -/

/-- `runSchedule_keeps` for a property of CORE, which a move changes only by the transaction's effect. -/
theorem runSchedule_keeps_core {P : State → Prop} {ts : List Transaction} {y z : System}
    (hperform : ∀ t ∈ ts, ∀ s u, P s → perform t s = .next u → P u) (hy : P y.core) (h : runSchedule ts y = some z) :
    P z.core := by
  refine runSchedule_keeps (P := fun w => P w.core) (fun t ht v w hv hmove => ?_) hy h
  obtain ⟨-, hnext, -⟩ := transact_eq_some.1 hmove
  exact hperform t ht v.core w.core hv hnext

section Invariant
variable {s : State} (hs : Inv s)
include hs

theorem Inv.storeBytes {a : Nat} {bs : List Byte} (ha : reservedEnd ≤ a) (hlen : a + bs.length ≤ memSize) :
    Inv (s.storeBytes a bs) := by
  have hstores : StoresAboveReserved s (s.storeBytes a bs) := ⟨a, bs, ha, hlen, rfl⟩
  have hmemory := hstores.wf (s.storeBytes_config a bs) hs.memory
  have hreserved := hstores.reservedIntact (s.storeBytes_config a bs) hs.reserved
  rw [s.storeBytes_eq a bs] at hmemory hreserved ⊢
  exact { hs with memory := hmemory, reserved := hreserved }

theorem Inv.loadProgram (bytes : List Byte) : Inv (s.loadProgram bytes) := by
  rcases s.loadProgram_cases bytes with ⟨hfits, h⟩ | ⟨-, h⟩ <;> rw [h]
  · exact hs.storeBytes le_rfl hfits
  · exact hs.raise _

theorem Inv.perform {t : Transaction} {u : State} (h : perform t s = .next u) : Inv u := by
  cases t with
  | cycle => exact stepKeepsInvariant s u hs h
  | reset => cases h; exact { inv_resetWith s.config with }
  | loadProgram bytes => cases h; exact hs.loadProgram bytes
  | tick | submitKeyEvent _ _ | framebufferSnapshot | isSoundActive | inspectState => cases h; exact { hs with }

end Invariant

/-- Settles O17: every move keeps the invariant, hence every schedule. -/
theorem schedulesKeepInvariant : Obligations.SchedulesKeepInvariant :=
  fun _ _ _ hy h => runSchedule_keeps_core (fun _ _ _ _ hs hnext => hs.perform hnext) hy h

/-! ### A Halted machine (R235, R247, R272; D24, D25, D27, D35) -/

/-- From a Halted state a transaction other than Reset moves timers and keys, or is a load. -/
theorem perform_of_halted {t : Transaction} {s u : State} {e : CoreError} (hs : s.runState = .halted e)
    (ht : t ≠ .reset) (h : perform t s = .next u) :
    (∃ d b ks, u = { s with dt := d, st := b, key := ks }) ∨
    ∃ bytes, t = .loadProgram bytes ∧ u = s.loadProgram bytes := by
  cases t with
  | reset => exact absurd rfl ht
  | loadProgram bytes => cases h; exact .inr ⟨bytes, rfl, rfl⟩
  | cycle => cases h.symm.trans (stepLeavesHaltedAndRefused s (.inr ⟨e, hs⟩)); exact .inl ⟨_, _, _, rfl⟩
  | tick | submitKeyEvent _ _ | framebufferSnapshot | isSoundActive | inspectState => cases h; exact .inl ⟨_, _, _, rfl⟩

/-- `u` is Halted for the reason `e` for which `s` is, or for an image among the loads of `ts` that does not fit. -/
def HaltedFor (ts : List Transaction) (e : CoreError) (s u : State) : Prop :=
  (u.runState = .halted e ∧ u.lastError = s.lastError) ∨
  ∃ bytes, .loadProgram bytes ∈ ts ∧ memSize < programBase + bytes.length ∧
    u.runState = .halted (.programTooLarge bytes.length) ∧ u.lastError = some (.programTooLarge bytes.length)

theorem HaltedFor.halted {ts : List Transaction} {e : CoreError} {s u : State} (h : HaltedFor ts e s u) :
    ∃ e', u.runState = .halted e' := by
  rcases h with ⟨h, -⟩ | ⟨bytes, -, -, h, -⟩ <;> exact ⟨_, h⟩

/-- What every state `u` on the way of a schedule `ts` without Reset has of the state `s`, Halted for `e`, it set out
from. -/
structure StaysHalted (ts : List Transaction) (e : CoreError) (s u : State) : Prop where
  reason : HaltedFor ts e s u
  pc : u.pc = s.pc
  reg : ∀ x, u.reg x = s.reg x
  i : u.i = s.i
  stack : u.stack = s.stack
  fb : u.fb = s.fb
  refused : u.refused = s.refused
  reserved : ∀ a, a < reservedEnd → u.readByte a = s.readByte a
  memory : (∀ bytes, .loadProgram bytes ∉ ts) → ∀ a, u.readByte a = s.readByte a

section Halted
variable {ts : List Transaction} {e : CoreError}

theorem staysHalted_refl {s : State} (hs : s.runState = .halted e) : StaysHalted ts e s s :=
  ⟨.inl ⟨hs, rfl⟩, rfl, fun _ => rfl, rfl, rfl, rfl, rfl, fun _ _ => rfl, fun _ _ => rfl⟩

theorem StaysHalted.loadProgram {s v : State} (hv : StaysHalted ts e s v) {bytes : List Byte}
    (ht : .loadProgram bytes ∈ ts) : StaysHalted ts e s (v.loadProgram bytes) := by
  rcases v.loadProgram_cases bytes with ⟨-, h⟩ | ⟨hlarge, h⟩ <;> rw [h]
  · have hreserved : ∀ a, a < reservedEnd → (v.storeBytes programBase bytes).readByte a = s.readByte a := fun a ha =>
      (v.readByte_storeBytes_of_outside bytes (.inl ha)).trans (hv.reserved a ha)
    rw [v.storeBytes_eq] at hreserved ⊢
    exact { hv with reserved := hreserved, memory := fun hnone => absurd ht (hnone bytes) }
  · exact { hv with reason := .inr ⟨bytes, ht, hlarge, rfl, rfl⟩ }

theorem StaysHalted.perform {s v u : State} (hv : StaysHalted ts e s v) {t : Transaction} (ht : t ∈ ts)
    (hreset : t ≠ .reset) (h : perform t v = .next u) : StaysHalted ts e s u := by
  obtain ⟨e', hhalted⟩ := hv.reason.halted
  rcases perform_of_halted hhalted hreset h with ⟨d, b, ks, rfl⟩ | ⟨bytes, rfl, rfl⟩
  · exact { hv with }
  · exact hv.loadProgram ht

theorem runSchedule_staysHalted {y z : System} (hy : y.core.runState = .halted e) (hreset : .reset ∉ ts)
    (h : runSchedule ts y = some z) : StaysHalted ts e y.core z.core :=
  runSchedule_keeps_core (fun _ ht _ _ hv hnext => hv.perform ht (ne_of_mem_of_not_mem ht hreset) hnext)
    (staysHalted_refl hy) h

/-- A schedule without a load has nothing to keep a duty for. -/
theorem loadsWhenFresh_of_no_load (hload : ∀ bytes, .loadProgram bytes ∉ ts) (fresh : Bool) :
    loadsWhenFresh fresh ts = true := by
  induction ts generalizing fresh with
  | nil => rfl
  | cons t ts ih =>
    have hallowed : t.allowed fresh = true := by
      cases t with
      | loadProgram bytes => exact absurd List.mem_cons_self (hload bytes)
      | _ => rfl
    rw [loadsWhenFresh_cons, hallowed, Bool.true_and]
    exact ih (fun bytes h => hload bytes (List.mem_cons_of_mem t h)) _

end Halted

/-- Settles O20: every move without Reset keeps `StaysHalted`, and a schedule without a load runs to its end. -/
theorem haltedIsTerminalUntilReset : Obligations.HaltedIsTerminalUntilReset := by
  intro ts y e hy hreset
  refine ⟨fun z hz => ?runs, fun hload => ?withoutLoad⟩
  case runs =>
    have hz := runSchedule_staysHalted hy hreset hz
    exact ⟨hz.reason, hz.pc, hz.reg, hz.i, hz.stack, hz.fb, hz.refused, hz.reserved⟩
  case withoutLoad =>
    obtain ⟨z, hz⟩ := (runSchedule_runs_iff ts y).2 (loadsWhenFresh_of_no_load hload y.fresh)
    have hstays := runSchedule_staysHalted hy hreset hz
    obtain ⟨hsame, herror⟩ := hstays.reason.resolve_right fun ⟨bytes, hmem, _⟩ => hload bytes hmem
    exact ⟨z, hz, hsame, herror, hstays.memory hload⟩

/-! ### Ticks (R245 to R247; D25, D35, log entry 5) -/

/-- Settles O56: a timer after a tick is one less, and not below 0. -/
theorem tickDecrementsTimers : Obligations.TickDecrementsTimers := by
  intro y
  have hdt : y.core.tick.dt.toNat = y.core.dt.toNat - 1 := tickTimer_toNat y.core.dt
  have hst : y.core.tick.st.toNat = y.core.st.toNat - 1 := tickTimer_toNat y.core.st
  have hframe : Frame { dt := true, st := true } y.core y.core.tick := by simp [Frame, State.tick]
  exact ⟨y.core.tick, rfl, by omega, by omega, by omega, by omega, rfl, hframe⟩

/-- The host may issue a quiet transaction at any time; the timers go down if it is a tick. -/
theorem transact_of_isQuiet {t : Transaction} (h : t.isQuiet = true) (y : System) :
    ∃ w, transact t y = some w ∧ w.core.dt.toNat = y.core.dt.toNat - [t].count .tick ∧
      w.core.st.toNat = y.core.st.toNat - [t].count .tick := by
  cases t with
  | tick => exact ⟨_, rfl, tickTimer_toNat _, tickTimer_toNat _⟩
  | submitKeyEvent _ _ | framebufferSnapshot | isSoundActive | inspectState => exact ⟨_, rfl, rfl, rfl⟩
  | cycle | reset | loadProgram _ => cases h

/-- Settles O57, by induction on the schedule. -/
theorem ticksSubtractFromTimers : Obligations.TicksSubtractFromTimers := by
  intro ts
  induction ts with
  | nil => exact fun y _ => ⟨y, rfl, rfl, rfl⟩
  | cons t ts ih =>
    intro y hquiet
    obtain ⟨ht, hts⟩ := List.forall_mem_cons.1 hquiet
    obtain ⟨w, hw, hdt, hst⟩ := transact_of_isQuiet ht y
    obtain ⟨z, hz, hdt', hst'⟩ := ih w hts
    have hcount : (t :: ts).count .tick = [t].count .tick + ts.count .tick :=
      List.count_append (l₁ := [t])
    refine ⟨z, runSchedule_cons_eq_some.2 ⟨w, hw, hz⟩, ?_, ?_⟩
    · rw [hdt', hdt, hcount, Nat.sub_sub]
    · rw [hst', hst, hcount, Nat.sub_sub]

/-! ### Key events and observers (R252 to R255; D29, D35, D38, log entry 5) -/

/-- Settles O59: a key event is one write of the keypad, and an observer's answer is read from the state. -/
theorem keyEventsAndObservers : Obligations.KeyEventsAndObservers := by
  intro k p y
  have hself : (y.core.setKey k p).isPressed k = p := by simp
  have hother : ∀ k', k' ≠ k → (y.core.setKey k p).isPressed k' = y.core.isPressed k' := fun k' hk => by simp [hk.symm]
  exact ⟨⟨_, rfl, hself, hother, rfl⟩, rfl, rfl, rfl, rfl, rfl, _, rfl, rfl, rfl, rfl, rfl, rfl, rfl, rfl, rfl⟩

end Sys2Proof.Machine

/-! Proofs of the statements about Reset and LoadProgram (70_reset_and_hazards.md): what the state after a Reset holds, and
the move of the host that a load is. -/

namespace Sys2Proof.Machine

/-! ### Reset (R270; D22, D23) -/

section ResetCore
variable (s : State)

@[simp] theorem State.resetCore_readByte (a : Nat) : s.resetCore.readByte a = Memory.base s.config.font a := rfl

@[simp] theorem State.resetCore_reg (x : Nibble) : s.resetCore.reg x = 0x00#8 := State.resetWith_reg s.config x

@[simp] theorem State.resetCore_isPressed (k : Nibble) : s.resetCore.isPressed k = false :=
  State.resetWith_isPressed s.config k

@[simp] theorem State.resetCore_pixel (row : Fin 32) (col : Fin 64) : s.resetCore.fb.pixel row col = false :=
  State.resetWith_pixel s.config row col

end ResetCore

/-- The host may issue Reset at any time, and may load a program after it (R251). -/
theorem transact_reset (y : System) : transact .reset y = some ⟨y.core.resetCore, true⟩ := rfl

/-- Settles O14: CORE after the move is the reset state of its own configuration. -/
theorem resetTransactionRestoresState : Obligations.ResetTransactionRestoresState := by
  intro y
  have hfont : ∀ a (h : a < 80), y.core.resetCore.readByte a = y.core.config.font[a] := fun a h =>
    (y.core.resetCore_readByte a).trans (Memory.base_of_lt y.core.config.font h)
  have hzeros : ∀ a, 80 ≤ a → y.core.resetCore.readByte a = 0x00#8 := fun a h =>
    (y.core.resetCore_readByte a).trans (Memory.base_of_ge y.core.config.font h)
  exact ⟨y.core.resetCore, transact_reset y, rfl, hfont, hzeros, y.core.resetCore_reg, rfl, rfl, rfl, rfl, rfl,
    y.core.resetCore_pixel, y.core.resetCore_isPressed, rfl, rfl, rfl⟩

/-! ### LoadProgram (R251, R272; D5, D24, log entry 10) -/

section Load
variable {s : State} {bytes : List Byte}

theorem State.loadProgram_of_fits (h : programBase + bytes.length ≤ memSize) :
    s.loadProgram bytes = s.storeBytes programBase bytes := if_neg (Nat.not_lt.2 h)

theorem State.loadProgram_of_too_large (h : memSize < programBase + bytes.length) :
    s.loadProgram bytes = s.raise (.programTooLarge bytes.length) := if_pos h

/-- Before the first Cycle after a Reset a load is a move, and another load may follow it. -/
theorem transact_loadProgram_of_fresh {y : System} (h : y.fresh = true) :
    transact (.loadProgram bytes) y = some ⟨y.core.loadProgram bytes, true⟩ :=
  transact_eq_some.2 ⟨h, rfl, h.symm⟩

end Load

/-- Settles O58: a load is one block store of the program or one raise, and the duty forbids it after the first Cycle. -/
theorem loadProgramCopiesOrHaltsOrHasNoMove : Obligations.LoadProgramCopiesOrHaltsOrHasNoMove := by
  intro bytes y hmem
  refine ⟨fun hfresh hfits => ⟨_, transact_loadProgram_of_fresh hfresh, ?copies⟩,
    fun hfresh hlarge => ⟨_, transact_loadProgram_of_fresh hfresh, ?halts⟩, fun hstale => ?noMove⟩
  case copies =>
    rw [State.loadProgram_of_fits hfits]
    exact ⟨fun j hj => y.core.readByte_storeBytes bytes hj hfits hmem, y.core.storeBytes_pc programBase bytes,
      frame_storeBytes y.core programBase bytes⟩
  case halts =>
    rw [State.loadProgram_of_too_large hlarge]
    exact y.core.raises_raise _
  case noMove => exact transact_of_not_allowed hstale

end Sys2Proof.Machine
